-- ==== Sys2Proof/Word.lean ====
section
/-! DEFINITION. The engine's word types (spec/00_scope.md rules R8, R9): 64-bit registers, 32-bit command words and
counters, binary64 values as their bit patterns, and complex samples. The arithmetic on them stands in
Sys2Proof/Machine/Real64.lean. -/

namespace Sys2Proof

/-- A 64-bit register (R8, R21, R22, R40). -/
abbrev Word64 := BitVec 64

/-- A 32-bit command word or telemetry counter (R8, R56, R120). -/
abbrev Word32 := BitVec 32

/-- An IEEE 754 binary64 value, held as its bit pattern (R9). `bf64` of R13 is `Real64.mk`, `f64b` is `Real64.bits`. -/
structure Real64 where
  bits : BitVec 64
deriving DecidableEq, Repr, Inhabited

/-- A pair of binary64 values (R9): a Sample, one I/Q pair; a real-valued sample `v` is held as `(v, 0)`. -/
structure Cplx where
  re : Real64
  im : Real64
deriving DecidableEq, Repr, Inhabited

end Sys2Proof
end

