-- ==== Sys2Proof/Syntax.lean ====
section
/-! DEFINITION. The 26 commands of the opcode table (spec/30_encoding.md rules R120, R123, R124, R130). A command carries
only the fields of its word: the `ID` field, and the flag bit `FL[0]` where R124 defines one. Every other operand is in an
argument register (R123). -/

namespace Sys2Proof

/-- One constructor per row of spec/opcode_table.json. `id` is the `ID` field (bits 15:0): a FIR instance index, a
half-band instance index or a bank index by family (R122); a Bool is the flag bit `FL[0]` (R124). -/
inductive Instr where
  | nop (id : Nat)
  | finit (v : Bool) (id : Nat)
  | ftune (l : Bool) (id : Nat)
  | fapply (id : Nat)
  | fdecim (id : Nat)
  | finterp (id : Nat)
  | fresamp (id : Nat)
  | hbinit (v : Bool) (id : Nat)
  | hbdec2 (id : Nat)
  | hbint2 (id : Nat)
  | chsel (w : Bool) (id : Nat)
  | chrun (id : Nat)
  | frac (id : Nat)
  | dminit (id : Nat)
  | demod (id : Nat)
  | restore (id : Nat)
  | modinit (id : Nat)
  | mod (id : Nat)
  | agcinit (f : Bool) (id : Nat)
  | agcrun (x : Bool) (id : Nat)
  | nbinit (id : Nat)
  | nbrun (id : Nat)
  | aninit (id : Nat)
  | anrun (id : Nat)
  | piperx (id : Nat)
  | bkfree (id : Nat)
deriving DecidableEq, Repr, Inhabited

/-- The `ID` field of a command (R120). -/
def Instr.id : Instr → Nat
  | .nop id => id
  | .finit _ id => id
  | .ftune _ id => id
  | .fapply id => id
  | .fdecim id => id
  | .finterp id => id
  | .fresamp id => id
  | .hbinit _ id => id
  | .hbdec2 id => id
  | .hbint2 id => id
  | .chsel _ id => id
  | .chrun id => id
  | .frac id => id
  | .dminit id => id
  | .demod id => id
  | .restore id => id
  | .modinit id => id
  | .mod id => id
  | .agcinit _ id => id
  | .agcrun _ id => id
  | .nbinit id => id
  | .nbrun id => id
  | .aninit id => id
  | .anrun id => id
  | .piperx id => id
  | .bkfree id => id

/-- The flag bit `FL[0]` of a command; false where R124 defines none. -/
def Instr.flag : Instr → Bool
  | .nop _ => false
  | .finit v _ => v
  | .ftune l _ => l
  | .fapply _ => false
  | .fdecim _ => false
  | .finterp _ => false
  | .fresamp _ => false
  | .hbinit v _ => v
  | .hbdec2 _ => false
  | .hbint2 _ => false
  | .chsel w _ => w
  | .chrun _ => false
  | .frac _ => false
  | .dminit _ => false
  | .demod _ => false
  | .restore _ => false
  | .modinit _ => false
  | .mod _ => false
  | .agcinit f _ => f
  | .agcrun x _ => x
  | .nbinit _ => false
  | .nbrun _ => false
  | .aninit _ => false
  | .anrun _ => false
  | .piperx _ => false
  | .bkfree _ => false

end Sys2Proof
end

