-- ==== Sys2Proof/WellFormed.lean ====
section
/-! DEFINITION. Which commands a word can carry (spec/30_encoding.md rule R120): the `ID` field has 16 bits. The range of
`ID` against the number of instances or banks (R122) is no matter of syntax: a command checks it when it runs. -/

namespace Sys2Proof

/-- The `ID` field holds 16 bits (R120). -/
def Instr.wellFormed (i : Instr) : Bool :=
  decide (i.id < 65536)

end Sys2Proof
end

