-- ==== Sys2Proof/Decode.lean ====
section
/-! DEFINITION. Decoding and encoding of command words (spec/30_encoding.md rules R120, R121, R124, R130, R140). -/

namespace Sys2Proof

/-- `OP`, bits [31:24] of a command word (R120). -/
def Word32.op (w : Word32) : Nat := (w.extractLsb' 24 8).toNat

/-- `FL`, bits [23:16] of a command word (R120). -/
def Word32.fl (w : Word32) : Nat := (w.extractLsb' 16 8).toNat

/-- `ID`, bits [15:0] of a command word (R120). -/
def Word32.idField (w : Word32) : Nat := (w.extractLsb' 0 16).toNat

/-- A row that defines no flag bit: legal only with `FL = 0` (R124). -/
def decodePlain (fl : Nat) (i : Instr) : Option Instr :=
  if fl = 0 then some i else none

/-- A row that defines `FL[0]`: legal only with `FL[7:1] = 0` (R124). -/
def decodeFlag (fl : Nat) (mk : Bool → Instr) : Option Instr :=
  if fl = 0 then some (mk false) else if fl = 1 then some (mk true) else none

/-- The lookup of R121 in the opcode map of R130, on the three fields of the word; `none` is an illegal word (R140). -/
def decodeFields (op fl id : Nat) : Option Instr :=
  match op with
  | 0x00 => decodePlain fl (.nop id)
  | 0x10 => decodeFlag fl fun v => .finit v id
  | 0x11 => decodeFlag fl fun l => .ftune l id
  | 0x12 => decodePlain fl (.fapply id)
  | 0x13 => decodePlain fl (.fdecim id)
  | 0x14 => decodePlain fl (.finterp id)
  | 0x15 => decodePlain fl (.fresamp id)
  | 0x20 => decodeFlag fl fun v => .hbinit v id
  | 0x21 => decodePlain fl (.hbdec2 id)
  | 0x22 => decodePlain fl (.hbint2 id)
  | 0x30 => decodeFlag fl fun w => .chsel w id
  | 0x31 => decodePlain fl (.chrun id)
  | 0x32 => decodePlain fl (.frac id)
  | 0x40 => decodePlain fl (.dminit id)
  | 0x41 => decodePlain fl (.demod id)
  | 0x42 => decodePlain fl (.restore id)
  | 0x43 => decodePlain fl (.modinit id)
  | 0x44 => decodePlain fl (.mod id)
  | 0x50 => decodeFlag fl fun f => .agcinit f id
  | 0x51 => decodeFlag fl fun x => .agcrun x id
  | 0x60 => decodePlain fl (.nbinit id)
  | 0x61 => decodePlain fl (.nbrun id)
  | 0x70 => decodePlain fl (.aninit id)
  | 0x71 => decodePlain fl (.anrun id)
  | 0x80 => decodePlain fl (.piperx id)
  | 0xF0 => decodePlain fl (.bkfree id)
  | _ => none

/-- Decoding of a command word: total, `none` exactly on the illegal words of R140. -/
def decode (w : Word32) : Option Instr :=
  decodeFields w.op w.fl w.idField

/-- The `OP` byte of a command (R130). -/
def Instr.opcode : Instr → Nat
  | .nop _ => 0x00
  | .finit _ _ => 0x10
  | .ftune _ _ => 0x11
  | .fapply _ => 0x12
  | .fdecim _ => 0x13
  | .finterp _ => 0x14
  | .fresamp _ => 0x15
  | .hbinit _ _ => 0x20
  | .hbdec2 _ => 0x21
  | .hbint2 _ => 0x22
  | .chsel _ _ => 0x30
  | .chrun _ => 0x31
  | .frac _ => 0x32
  | .dminit _ => 0x40
  | .demod _ => 0x41
  | .restore _ => 0x42
  | .modinit _ => 0x43
  | .mod _ => 0x44
  | .agcinit _ _ => 0x50
  | .agcrun _ _ => 0x51
  | .nbinit _ => 0x60
  | .nbrun _ => 0x61
  | .aninit _ => 0x70
  | .anrun _ => 0x71
  | .piperx _ => 0x80
  | .bkfree _ => 0xF0

/-- The command word `OP ++ FL ++ ID` of a command (R120). -/
def encode (i : Instr) : Word32 :=
  BitVec.ofNat 32 (i.opcode * 2 ^ 24 + i.flag.toNat * 2 ^ 16 + i.id)

/-- What the decoder reads from an instruction whose `nbits` bits are `w`, every bit above them zero. A command is one
32-bit word, so the table's numbering is the word's own (R120). -/
def decodeTableWord (nbits w : Nat) : Option Instr :=
  decode (BitVec.ofNat 32 (w % 2 ^ nbits))

end Sys2Proof
end

