-- ==== Sys2Proof/Config.lean ====
section
/-! DEFINITION. What an implementation fixes and what nothing fixes: the parameters of spec/00_scope.md rule R6 as plain data
(`Params`), the functions of the configuration that the spec assumes only to be total (R12, R268, R274, R410, R411), and the
free values. The last two kinds are constants without a body: nothing can be proved of their values. -/

namespace Sys2Proof

/-! ## Free values -/

/-- A free binary64 value (R11, U3): `serial` numbers the command that draws it (`State.draws`), `place` names the value it
stands for inside that command. Log 3, log 13. -/
opaque Config.freeReal (serial : Nat) (place : List Nat) : Real64

/-- A free integer, for the floor of a value that is not finite (log 23). -/
opaque Config.freeInt (serial : Nat) (place : List Nat) : Int

/-- Sign bit and significand field of the NaN that an operation on two operands gives: R10 takes IEEE 754, which does not fix
them (log 2). A significand field of 0 would be an infinity and stands for 1. -/
opaque Config.nanBits (x y : Real64) : BitVec 53

/-! ## Numerics (R12): total functions, of which nothing else is assumed (log 4) -/

opaque Config.exp (x : Real64) : Real64
opaque Config.cos (x : Real64) : Real64
opaque Config.sin (x : Real64) : Real64
opaque Config.sqrt (x : Real64) : Real64
opaque Config.atan2 (y x : Real64) : Real64

/-- Bin `k` of the discrete Fourier transform of a sequence (R12). -/
opaque Config.fft (x : List Cplx) (k : Nat) : Cplx

/-- Entry `n` of the inverse discrete Fourier transform of a sequence (R12). -/
opaque Config.ifft (x : List Cplx) (n : Nat) : Cplx

/-! ## The orchestrator's parameter functions (log 20) -/

/-- `squelch_open(threshold, sig, mode)` of R410. -/
opaque Config.squelchOpen (threshold : Real64) (sig : List Cplx) (mode : Nat) : Bool

/-- `measure_smeter(sig)` of R411. -/
opaque Config.measureSmeter (sig : List Cplx) : Real64

/-- `measure_rms(x)` of R411. -/
opaque Config.measureRms (x : List Cplx) : Real64

/-! ## The codec adapter (R268): its state is a natural number (log 18) -/

/-- `Codec.open(mode)`. -/
opaque Config.codecOpen (mode : Nat) : Nat

/-- `Codec.decode(dv, x)`: the state after, and the audio, an answer of the environment drawn afresh for each command. -/
opaque Config.codecDecode (serial dv : Nat) (x : List Cplx) : Nat × List Real64

/-! ## The transmit adapter `TxBundle` (R273, R274): its state is a natural number (log 19) -/

/-- `TxBundle.init(mode)`. -/
opaque Config.txInit (mode : Nat) : Nat

/-- `TxBundle.preemphasis`: the state after and the sequence, from `MIC_PREEMPH` and `MIC_VOX`. -/
opaque Config.txPreemphasis (st : Nat) (x : List Real64) (preemph vox : Real64) : Nat × List Real64

/-- `TxBundle.level_softclip`: the state after and the sequence, from `MIC_CLIP`. -/
opaque Config.txLevelSoftclip (st : Nat) (x : List Real64) (clip : Real64) : Nat × List Real64

/-- `TxBundle.bandpass_and_modulate`: the state after and the complex baseband. -/
opaque Config.txBandpassModulate (st : Nat) (x : List Real64) : Nat × List Cplx

/-- `TxBundle.interpolate`: the state after. -/
opaque Config.txInterpolateState (st : Nat) (z : List Cplx) : Nat

/-- `TxBundle.interpolate`: output sample `q`. -/
opaque Config.txInterpolate (st : Nat) (z : List Cplx) (q : Nat) : Cplx

/-- The output count of `MOD`, a function of the carried state and of `n` only (R274). -/
opaque Config.txCount (st n : Nat) : Nat

/-! ## The parameters of R6 -/

/-- A stage descriptor (R221): a half-band by 2, or a fixed-ratio FIR stage of ratio `r` with coefficient table `t`. -/
inductive StageDesc where
  | hb
  | fir (r t : Nat)
deriving DecidableEq, Repr

/-- An entry of a `CHAIN_TABLE` row (R221): a stage descriptor, or `FINAL(w)`. -/
inductive RowStage where
  | stage (d : StageDesc)
  | final
deriving DecidableEq, Repr

/-- One row of `CHAIN_TABLE` (R221, R222): the cascade of a rate id and wide flag. -/
structure ChainRow where
  rateId : Nat
  wide : Bool
  stages : List RowStage
deriving DecidableEq, Repr

/-- `kind` of a `MODE_TABLE` record (R252); `noSemantics` is the table's `NONE` (R267). -/
inductive ModeKind where
  | ssbcw | am | fm | digSum | digRaw | dv | noSemantics
deriving DecidableEq, Repr, Inhabited

/-- One record of `MODE_TABLE` (R252). `dec` and `int` list the arguments for which the configuration departs from the
default of R252 (log 21). -/
structure ModeRec where
  /-- `filterRate` in Hz; 0 where the table says none. -/
  filterRate : Nat
  kind : ModeKind
  lower : Bool
  dec : List (Nat × Option (List StageDesc))
  int : List (Nat × Option (List StageDesc))
  agcOnBaseband : Bool
deriving DecidableEq, Repr, Inhabited

/-- Values a `Numerics` instance is known to have, argument by argument; at every other argument the function is the
body-less one above (log 4). -/
structure NumTable where
  exp : List (Real64 × Real64)
  cos : List (Real64 × Real64)
  sin : List (Real64 × Real64)
  sqrt : List (Real64 × Real64)
  atan2 : List ((Real64 × Real64) × Real64)
  fft : List (List Cplx × List Cplx)
  ifft : List (List Cplx × List Cplx)
deriving DecidableEq, Repr, Inhabited

/-- The parameters of R6 that are data. `NBANKS`, `NFILT`, `NHB`, `NTAB` are the lengths of the state's arrays (log 6). -/
structure Params where
  /-- `CLIP`, full scale. -/
  clip : Real64
  maxTaps : Nat
  smSize : Nat
  maxBlock : Nat
  /-- `HB45[0..44]`. -/
  hb45 : List Real64
  /-- `CANON` in Hz. -/
  canon : Nat
  /-- `RATE_SET` for ids 6 to 255 (R136). -/
  rates : List (Nat × Nat)
  /-- `CHAIN_TABLE`. -/
  chains : List ChainRow
  tabFinalSharp : Nat
  tabFinalLoose : Nat
  /-- `MODE_TABLE`, indexed by mode id. -/
  modes : List ModeRec
  sbPlusIsUpper : Bool
  amDcPole : Real64
  fmGain : Real64
  fmDeB0 : Real64
  fmDeB1 : Real64
  fmDeA1 : Real64
  digBwThreshold : Real64
  outFactor : Nat
  agcLookahead : Real64
  nbTime : Real64
  nbThresh1 : Real64
  nbThresh2 : Real64
  nbThresh3 : Real64
  anB : Nat
  anNfft : Nat
  anKg : Nat
  anBeta : Real64
  anExclTone : Nat
  anExclPeer : Nat
  anTol : Nat
  anHmin : Int
  anHmax : Int
  anHacc : Int
  anHalfwidth : Nat
  anExtraDelay : Nat
  fadeTime : Real64
  sidetoneLevel : Real64
  num : NumTable
  /-- Whether a `Codec` adapter is configured. -/
  codec : Bool
  /-- Whether a `TxBundle` is configured. -/
  txBundle : Bool
  /-- A constant `squelch_open`, or the body-less function. -/
  squelch : Option Bool
  /-- A constant `measure_smeter`, or the body-less function. -/
  smeter : Option Real64
  /-- A constant `measure_rms`, or the body-less function. -/
  rms : Option Real64
deriving DecidableEq, Repr, Inhabited

/-! ## The test configuration TC of spec/95_test_vectors.md section 0 (log 5) -/

namespace Tc

/-- A record of `MODE_TABLE` with the defaults of R252. -/
def modeRec (rate : Nat) (kind : ModeKind) (lower : Bool) : ModeRec :=
  { filterRate := rate, kind := kind, lower := lower, dec := [], int := [], agcOnBaseband := false }

/-- `MODE_TABLE` as R252 prints it, in the order of the mode ids (R135). -/
def modes : List ModeRec :=
  [ modeRec 6000 .ssbcw true, modeRec 6000 .ssbcw false,
    modeRec 12000 .ssbcw true, modeRec 12000 .ssbcw false,
    modeRec 24000 .am false, modeRec 24000 .fm false,
    modeRec 0 .noSemantics false,
    modeRec 48000 .digSum false, modeRec 48000 .digSum true, modeRec 48000 .digRaw false,
    modeRec 0 .noSemantics false,
    modeRec 8000 .dv false, modeRec 8000 .dv false ]

/-- The two documented rows of `CHAIN_TABLE` (R222), for both flag values. -/
def chains : List ChainRow :=
  [ ⟨4, false, [.stage .hb, .stage .hb, .stage .hb, .final]⟩,
    ⟨4, true, [.stage .hb, .stage .hb, .stage .hb, .final]⟩,
    ⟨1, false, [.stage .hb, .final]⟩,
    ⟨1, true, [.stage .hb, .final]⟩ ]

/-- `HBT`: 0.5 at the centre, 0.25 beside it, 0 elsewhere. -/
def hbt : List Real64 :=
  List.replicate 21 ⟨0⟩ ++ [⟨0x3FD0000000000000⟩, ⟨0x3FE0000000000000⟩, ⟨0x3FD0000000000000⟩] ++ List.replicate 21 ⟨0⟩

/-- `cos 0 = 1` and `sin 0 = 0`, all that TC asks of `Numerics`. -/
def num : NumTable :=
  { exp := []
    cos := [(⟨0⟩, ⟨0x3FF0000000000000⟩), (⟨0x8000000000000000⟩, ⟨0x3FF0000000000000⟩)]
    sin := [(⟨0⟩, ⟨0⟩), (⟨0x8000000000000000⟩, ⟨0x8000000000000000⟩)]
    sqrt := [], atan2 := [], fft := [], ifft := [] }

/-- The whole configuration. TC gives no value for the de-emphasis, `DIG_BW_THRESHOLD`, `SIDETONE_LEVEL` and the notch; log 5
names the ones chosen. -/
def params : Params :=
  { clip := ⟨0x408F400000000000⟩
    maxTaps := 4096, smSize := 1048576, maxBlock := 65536
    hb45 := hbt, canon := 48000, rates := [], chains := chains
    tabFinalSharp := 30, tabFinalLoose := 31, modes := modes
    sbPlusIsUpper := true, amDcPole := ⟨0x3FEFAE147AE147AE⟩, fmGain := ⟨0x3FF0000000000000⟩
    fmDeB0 := ⟨0x3FF0000000000000⟩, fmDeB1 := ⟨0⟩, fmDeA1 := ⟨0⟩, digBwThreshold := ⟨0x409F400000000000⟩
    outFactor := 1, agcLookahead := ⟨0x3F10624DD2F1A9FC⟩, nbTime := ⟨0x3F40624DD2F1A9FC⟩
    nbThresh1 := ⟨0x4008000000000000⟩, nbThresh2 := ⟨0x4008000000000000⟩, nbThresh3 := ⟨0x4008000000000000⟩
    anB := 4, anNfft := 8, anKg := 5, anBeta := ⟨0x3FF0000000000000⟩
    anExclTone := 1, anExclPeer := 1, anTol := 2, anHmin := 0, anHmax := 3, anHacc := 2
    anHalfwidth := 0, anExtraDelay := 0
    fadeTime := ⟨0x3F747AE147AE147B⟩, sidetoneLevel := ⟨0x3FF0000000000000⟩
    num := num, codec := false, txBundle := false
    squelch := some true, smeter := some ⟨0⟩, rms := some ⟨0⟩ }

end Tc

end Sys2Proof
end

