-- ==== Sys2Proof/Machine/State.lean ====
section
/-! DEFINITION. The architectural state of the engine (spec/10_state.md rules R20 to R78), the reasons a step can stop, and
the state after reset (R78, R480). Every array is a list; NBANKS, NFILT, NHB, NTAB are the lengths of `chans`, `fi`, `hb`,
`ct` (log 6). -/

namespace Sys2Proof.Machine

/-! ## Filter and half-band instances -/

/-- The sample type of an instance's history (R30). -/
inductive Variant where
  | cplx | real
deriving DecidableEq, Repr, Inhabited

/-- A FIR filter instance (R30); the fields' defaults are its reset value (R33). -/
structure FilterInst where
  bound : Bool := false
  variant : Variant := .cplx
  /-- `tab`: the coefficient-table id it references. -/
  tab : Nat := 0
  /-- `N`: the tap count. -/
  taps : Nat := 0
  tuned : Option (List Cplx) := none
  hist : List Cplx := []
  cur : Nat := 0
  /-- The decimation phase counter; never negative (log 24). -/
  phase : Nat := 0
  scap : Nat := 0
deriving DecidableEq, Repr, Inhabited

/-- A half-band instance (R34); the fields' defaults are its reset value (R35). -/
structure HBInst where
  bound : Bool := false
  variant : Variant := .cplx
  /-- `win[k]` is the input received `k` inputs ago. -/
  win : List Cplx := List.replicate 45 ⟨⟨0⟩, ⟨0⟩⟩
  toggle : Bool := false
deriving DecidableEq, Repr, Inhabited

/-- A stage of a cascade (R61): it owns its filter. -/
inductive StageInst where
  | hb (h : HBInst)
  | fir (f : FilterInst) (ratio : Nat)
deriving DecidableEq, Repr

/-- A coefficient table (R36); its `len` is the length of `val`. -/
structure Table where
  val : List Real64
deriving DecidableEq, Repr, Inhabited

/-! ## Bank components; the fields' defaults are the reset values -/

/-- R61. -/
structure ChainState where
  valid : Bool := false
  rateId : Nat := 0
  wide : Bool := false
  stages : List StageInst := []
  achRate : Real64 := ⟨0⟩
deriving DecidableEq, Repr, Inhabited

/-- R62: the last four inputs, `h0` the oldest, and the fractional position. -/
structure FracState where
  h0 : Cplx := ⟨⟨0⟩, ⟨0⟩⟩
  h1 : Cplx := ⟨⟨0⟩, ⟨0⟩⟩
  h2 : Cplx := ⟨⟨0⟩, ⟨0⟩⟩
  h3 : Cplx := ⟨⟨0⟩, ⟨0⟩⟩
  mu : Real64 := ⟨0⟩
deriving DecidableEq, Repr, Inhabited

/-- R63. `dv` is the codec adapter's state (log 18). -/
structure DemodState where
  valid : Bool := false
  mode : Nat := 0
  inRate : Real64 := ⟨0⟩
  dec : List StageInst := []
  rxf : FilterInst := {}
  rxfTab : Nat := 0
  rxfFreq : Real64 := ⟨0⟩
  rxfLower : Bool := false
  amDc : Real64 := ⟨0⟩
  fmPrev : Cplx := ⟨⟨0⟩, ⟨0⟩⟩
  fmX1 : Real64 := ⟨0⟩
  fmY1 : Real64 := ⟨0⟩
  int : List StageInst := []
  dv : Nat := 0
deriving DecidableEq, Repr, Inhabited

/-- R64. `adapter` is the `TxBundle` state, called `opaque` there (log 19). -/
structure TxState where
  valid : Bool := false
  mode : Nat := 0
  adapter : Nat := 0
deriving DecidableEq, Repr, Inhabited

/-- The noise blanker's three states (R65). -/
inductive NBMode where
  | normal | pulseActive | windowRaising
deriving DecidableEq, Repr, Inhabited

/-- R65. -/
structure NBState where
  valid : Bool := false
  w : Nat := 0
  h : Nat := 0
  bufS : List Cplx := []
  bufM : List Real64 := []
  sum : Real64 := ⟨0⟩
  idx : Nat := 0
  st : NBMode := .normal
  ramp : Nat := 0
  seen : Nat := 0
deriving DecidableEq, Repr, Inhabited

/-- R66. Its reset value of `fm` is the model's (DESIGN CHOICE, log 27). -/
structure AGCState where
  valid : Bool := false
  len : Nat := 0
  buf : List Cplx := []
  indexRead : Nat := 0
  indexStart : Nat := 0
  gain : Real64 := ⟨0⟩
  targetGain : Real64 := ⟨0⟩
  delta : Real64 := ⟨0⟩
  maxMag : Real64 := ⟨0⟩
  clipping : Bool := false
  fs : Real64 := ⟨0⟩
  alpha : Real64 := ⟨0⟩
  fm : Bool := false
deriving DecidableEq, Repr, Inhabited

/-- One of the two tracked interferers of R68: `prev[s]`, `cnt[s]`, `tgt[s]`, `builtFor[s]`. -/
structure NotchSlot where
  prev : Int := 0
  cnt : Int := 0
  tgt : Option Nat := none
  builtFor : Option Nat := none
deriving DecidableEq, Repr, Inhabited

/-- R68. -/
structure NotchState where
  valid : Bool := false
  fs : Real64 := ⟨0⟩
  blk : List Real64 := []
  fill : Nat := 0
  avg : List Real64 := []
  slot0 : NotchSlot := {}
  slot1 : NotchSlot := {}
  /-- `G`: the cached frequency-domain kernel. -/
  kernel : List Cplx := []
  dly : List Real64 := []
deriving DecidableEq, Repr, Inhabited

/-- The key-down machine's four states (R70). -/
inductive KeyMode where
  | rx | keyed | hold | fadeIn
deriving DecidableEq, Repr, Inhabited

/-- R70. -/
structure KeyState where
  st : KeyMode := .rx
  n : Nat := 0
  lvl : Nat := 0
  tone : Real64 := ⟨0⟩
deriving DecidableEq, Repr, Inhabited

/-- A bank (R60). -/
structure Bank where
  chain : ChainState := {}
  frac : FracState := {}
  /-- The tuning mixer phase in radians (R403). -/
  mix : Real64 := ⟨0⟩
  nb : NBState := {}
  demod : DemodState := {}
  tx : TxState := {}
  agc : AGCState := {}
  notch : NotchState := {}
  key : KeyState := {}
deriving DecidableEq, Repr, Inhabited

/-! ## Control registers (R40 to R58): each field at its own width, so that reserved bits read 0 and ignore writes -/

/-- `STATUS` (R41). -/
structure Status where
  code : BitVec 8 := 0
  trunc : Bool := false
deriving DecidableEq, Repr, Inhabited

/-- The global control registers: `STATUS`, configuration (R42 to R54), telemetry (R56). -/
structure CtrlRegs where
  status : Status := {}
  rateIn : BitVec 8 := 0
  nrx : BitVec 8 := 1
  nbLevel : BitVec 2 := 0
  notchEn : Bool := false
  squelchThr : Real64 := ⟨0⟩
  agcMaxOut : Real64 := ⟨0⟩
  agcRelTime : Real64 := ⟨0⟩
  agcRelGain : Real64 := ⟨0⟩
  ctcssFreq : Real64 := ⟨0⟩
  micPreemph : Real64 := ⟨0⟩
  micClip : Real64 := ⟨0⟩
  micVox : Real64 := ⟨0⟩
  keyDown : Bool := false
  keyTone : Bool := false
  holdDelay : Real64 := ⟨0⟩
  sidetoneFreq : Real64 := ⟨0⟩
  ovrCnt : Word32 := 0
  smeter : Real64 := ⟨0⟩
  audioRms : Real64 := ⟨0⟩
  agcGain : Real64 := ⟨0⟩
  notchBin0 : Word32 := 0xFFFFFFFF
  notchBin1 : Word32 := 0xFFFFFFFF
  errCnt : Word32 := 0
  xrunCnt : Word32 := 0
deriving DecidableEq, Repr, Inhabited

/-- The per-bank configuration registers (R55). -/
structure BankRegs where
  mode : BitVec 8 := 0
  tune : Real64 := ⟨0⟩
  rxfTab : BitVec 16 := 0
  rxfBw : Real64 := ⟨0⟩
  rxfFreq : Real64 := ⟨0⟩
deriving DecidableEq, Repr, Inhabited

/-- Everything a bank index names: `BANK[b]` (R60), its configuration registers (R55), `ACH_RATE[b]` (R56). -/
structure Channel where
  bank : Bank := {}
  cr : BankRegs := {}
  achRate : Real64 := ⟨0⟩
deriving DecidableEq, Repr, Inhabited

/-! ## The host's side (R99) -/

/-- Sample memory: the cells that differ from what an unlisted cell reads as, addresses strictly rising (log 8, log 9). -/
abbrev Mem := List (Nat × Cplx)

/-- A host action (R99). -/
inductive HostAction where
  | writeA (i : Fin 4) (w : Word64)
  | issueCmd (w : Word32)
  | readR (i : Fin 2)
  | readCR (n : Nat)
  | writeCR (n : Nat) (w : Word64)
  | loadTable (t : Nat) (vals : List Real64)
  | writeSM (a : Nat) (vals : List Cplx)
  | readSM (a n : Nat)
  | reset
deriving DecidableEq, Repr

/-- What the last reading host action handed to the host (log 11). -/
inductive Reply where
  | none
  | word (w : Word64)
  | cells (vals : List Cplx)
deriving DecidableEq, Repr, Inhabited

/-- The state (R20), and below it the model's own fields: the configuration (log 5), the host actions to come (log 10), the
reply (log 11), the oracle's coming answers (log 12) and the serial number of free values (log 13). -/
structure State where
  a0 : Word64
  a1 : Word64
  a2 : Word64
  a3 : Word64
  r0 : Word64
  r1 : Word64
  cr : CtrlRegs
  ct : List (Option Table)
  sm : Mem
  fi : List FilterInst
  hb : List HBInst
  chans : List Channel
  cfg : Params
  host : List HostAction
  reply : Reply
  allocs : List Bool
  draws : Nat
deriving DecidableEq, Repr, Inhabited

/-- Why the machine stops with no next state. No command raises one of these: a command's errors are next states (R444). -/
inductive Fault where
  /-- Raised by `step` on a command when the configuration breaks a constraint that the engine does not check: U22 calls that
  stuck (log 22). Safe. -/
  | illFormedConfiguration
  /-- Raised by `step` on a host `ReadSM` or `WriteSM` that names a cell outside `0 .. SMSIZE−1` (R37; log 25). Safe. -/
  | noSuchCell
deriving DecidableEq, Repr

/-- Why the machine gives an instruction no meaning. -/
inductive Refusal where
  /-- Raised by an arm of `exec` whose instruction has no meaning yet; no arm does. Safe. -/
  | notModelled (mnemonic : String)
deriving DecidableEq, Repr

/-- The reset state (R78, R480) of an engine with the given configuration and numbers of table slots, FIR instances,
half-band instances and banks. `A` and `SM` are unspecified there: zero here (log 7, log 8). -/
def State.resetOf (cfg : Params) (ntab nfilt nhb nbanks : Nat) : State :=
  { a0 := 0, a1 := 0, a2 := 0, a3 := 0, r0 := 0, r1 := 0
    cr := {}
    ct := List.replicate ntab none
    sm := []
    fi := List.replicate nfilt {}
    hb := List.replicate nhb {}
    chans := List.replicate nbanks {}
    cfg := cfg
    host := [], reply := .none, allocs := [], draws := 0 }

/-- The machine right after reset, in the test configuration TC of spec/95_test_vectors.md (log 5). -/
def State.reset : State := State.resetOf Tc.params 32 16 16 2

end Sys2Proof.Machine
end

