-- ==== Sys2Proof/Machine/Flags.lean ====
section
/-! DEFINITION. `STATUS`: the error codes (spec/60_exceptions.md rule R441) and the flag `TRUNC` (rules R27, R41, R448), the only
flag of the engine. -/

namespace Sys2Proof.Machine

/-- The errors a command can end with (R441). -/
inductive Err where
  | rate | alloc | noData | size | param | unbound | bounds | unsupported | badOp | table
deriving DecidableEq, Repr

/-- The code of an error (R441). -/
def Err.code : Err → BitVec 8
  | .rate => 1
  | .alloc => 2
  | .noData => 3
  | .size => 4
  | .param => 5
  | .unbound => 6
  | .bounds => 7
  | .unsupported => 8
  | .badOp => 9
  | .table => 10

/-- `STATUS` after an error: the code, `TRUNC = 0` (R443). -/
def Status.ofErr (e : Err) : Status := { code := e.code, trunc := false }

/-- `STATUS` after a command that completed: code 0, and whether it cut its output (R41, R448). -/
def Status.ofTrunc (trunc : Bool) : Status := { code := 0, trunc := trunc }

/-- `STATUS` as the host reads it: bits [63:9] are 0 (R41). -/
def Status.word (st : Status) : Word64 :=
  BitVec.ofNat 64 (st.code.toNat + if st.trunc then 256 else 0)

end Sys2Proof.Machine
end

