-- ==== Sys2Proof/Machine/Real64.lean ====
section
/-! DEFINITION. binary64 arithmetic (spec/00_scope.md rules R9, R10): every operation computes the exact result and rounds it
once, to nearest with ties to even. A finite value is a sign and a natural number of units of 2^-1074, the smallest
subnormal; log 1 says that the arithmetic is IEEE 754 and not an abstract field, log 2 what a NaN's bits are. -/

namespace Sys2Proof

/-! ## Fields and classes -/

/-- The sign bit. -/
def Real64.sign (x : Real64) : Bool := x.bits.getLsbD 63

/-- The biased exponent field. -/
def Real64.expField (x : Real64) : Nat := (x.bits.extractLsb' 52 11).toNat

/-- The significand field. -/
def Real64.sigField (x : Real64) : Nat := (x.bits.extractLsb' 0 52).toNat

def Real64.isFinite (x : Real64) : Bool := decide (x.expField < 2047)

def Real64.isNaN (x : Real64) : Bool := decide (x.expField = 2047 ∧ x.sigField ≠ 0)

def Real64.isInf (x : Real64) : Bool := decide (x.expField = 2047 ∧ x.sigField = 0)

/-- The magnitude of a finite value in units of 2^-1074. -/
def Real64.units (x : Real64) : Nat :=
  if x.expField = 0 then x.sigField else (x.sigField + 2 ^ 52) <<< (x.expField - 1)

/-- A finite value as a signed number of units of 2^-1074. -/
def Real64.toUnits (x : Real64) : Int :=
  if x.sign then -(x.units : Int) else (x.units : Int)

/-! ## Constants and constructors -/

def Real64.zero : Real64 := ⟨0⟩
def Real64.one : Real64 := ⟨0x3FF0000000000000⟩
def Real64.two : Real64 := ⟨0x4000000000000000⟩
def Real64.six : Real64 := ⟨0x4018000000000000⟩
def Real64.half : Real64 := ⟨0x3FE0000000000000⟩

/-- The binary64 value nearest π (R12). -/
def Real64.pi : Real64 := ⟨0x400921FB54442D18⟩

/-- A signed infinity. -/
def Real64.inf (neg : Bool) : Real64 :=
  ⟨if neg then 0xFFF0000000000000 else 0x7FF0000000000000⟩

/-- The NaN an operation on `x` and `y` gives: its sign and significand are free (log 2). -/
def Real64.nan (x y : Real64) : Real64 :=
  let f := Config.nanBits x y
  let sig := f.extractLsb' 0 52
  ⟨f.extractLsb' 52 1 ++ (0x7FF : BitVec 11) ++ (if sig = 0 then 1 else sig)⟩

/-- How many units make 1. -/
def Real64.unit : Nat := 1 <<< 1074

/-- A quotient `num / den` rounded to an integer, to nearest with ties to even. -/
def roundNearestEven (num den : Nat) : Nat :=
  let q := num / den
  let r := num % den
  if 2 * r < den then q else if den < 2 * r then q + 1 else if q % 2 = 0 then q else q + 1

/-- The binary64 value of sign `neg` nearest the magnitude `num / den` units of 2^-1074 (R10), overflowing to infinity. The
last place of the result is `2 ^ s` units: 1 up to the smallest normal binade, 53 significant bits above it. -/
def Real64.round (neg : Bool) (num den : Nat) : Real64 :=
  let s := (num / den).log2 - 52
  let m := roundNearestEven num (den <<< s)
  let mag := (s <<< 52) + m
  ⟨BitVec.ofNat 64 ((if 0x7FF0000000000000 ≤ mag then 0x7FF0000000000000 else mag) + if neg then 2 ^ 63 else 0)⟩

/-- A natural number as a Real64: exact up to 2^53; above, one that is no binary64 value is rounded to the nearest, which the spec leaves
open (R223; DESIGN CHOICE, log 35). -/
def Real64.ofNat (n : Nat) : Real64 := Real64.round false (n * Real64.unit) 1

/-! ## Arithmetic -/

/-- The value with the other sign. -/
def Real64.neg (x : Real64) : Real64 := ⟨x.bits ^^^ 0x8000000000000000⟩

/-- The magnitude of a value. -/
def Real64.abs (x : Real64) : Real64 := ⟨x.bits &&& 0x7FFFFFFFFFFFFFFF⟩

/-- The sum of two finite values: an exact zero sum is +0 unless both are -0. -/
def Real64.addFinite (x y : Real64) : Real64 :=
  let z := x.toUnits + y.toUnits
  if z = 0 then ⟨if x.sign && y.sign then 0x8000000000000000 else 0⟩
  else Real64.round (decide (z < 0)) z.natAbs 1

/-- `x + y` (R10). -/
def Real64.add (x y : Real64) : Real64 :=
  if x.isFinite && y.isFinite then x.addFinite y
  else if x.isNaN || y.isNaN then .nan x y
  else if x.isInf && y.isInf then (if x.sign = y.sign then x else .nan x y)
  else if x.isInf then x else y

/-- `x − y` (R10). -/
def Real64.sub (x y : Real64) : Real64 :=
  if x.isNaN || y.isNaN then .nan x y else x.add y.neg

/-- `x · y` (R10). -/
def Real64.mul (x y : Real64) : Real64 :=
  let s := x.sign != y.sign
  if x.isFinite && y.isFinite then Real64.round s (x.units * y.units) Real64.unit
  else if x.isNaN || y.isNaN then .nan x y
  else if x.units = 0 || y.units = 0 then .nan x y
  else .inf s

/-- `x / y` (R10). -/
def Real64.div (x y : Real64) : Real64 :=
  let s := x.sign != y.sign
  if x.isNaN || y.isNaN then .nan x y
  else if x.isInf then (if y.isInf then .nan x y else .inf s)
  else if y.isInf then ⟨if s then 0x8000000000000000 else 0⟩
  else if y.units = 0 then (if x.units = 0 then .nan x y else .inf s)
  else Real64.round s (x.units * Real64.unit) y.units

/-! ## Comparison -/

/-- A total order key of a value that is no NaN: infinities lie beyond every finite value. -/
def Real64.key (x : Real64) : Int :=
  if x.sign then -((x.bits.extractLsb' 0 63).toNat : Int) else ((x.bits.extractLsb' 0 63).toNat : Int)

/-- `x < y`; false on a NaN. -/
def Real64.lt (x y : Real64) : Bool :=
  !x.isNaN && !y.isNaN && decide (x.key < y.key)

/-- `x ≤ y`; false on a NaN. -/
def Real64.le (x y : Real64) : Bool :=
  !x.isNaN && !y.isNaN && decide (x.key ≤ y.key)

/-- `x = y` as numbers: the two zeros are equal, a NaN equals nothing. -/
def Real64.eqv (x y : Real64) : Bool :=
  !x.isNaN && !y.isNaN && decide (x.key = y.key)

/-- The lesser of two values; the first when either is NaN, which the spec leaves open (DESIGN CHOICE, log 34). -/
def Real64.min (x y : Real64) : Real64 := if y.lt x then y else x

/-- Finite and greater than 0. -/
def Real64.isPos (x : Real64) : Bool := x.isFinite && Real64.zero.lt x

/-! ## Conversion to integers -/

/-- `floor(x)`; none when `x` is not finite. -/
def Real64.floor? (x : Real64) : Option Int :=
  if x.isFinite then some (x.toUnits / (Real64.unit : Int)) else none

/-- `floor(x + 0.5)`, the rounding of R301, R331, R366, R412. -/
def Real64.roundHalfUp? (x : Real64) : Option Int := (x.add .half).floor?

/-- The natural number a value is exactly, if it is one. -/
def Real64.toNat? (x : Real64) : Option Nat :=
  if x.isFinite && !(x.sign && decide (x.units ≠ 0)) && decide (x.units % Real64.unit = 0)
  then some (x.units / Real64.unit) else none

/-! ## Complex arithmetic (R9, R10) -/

def Cplx.zero : Cplx := ⟨.zero, .zero⟩

/-- A real-valued sample `(v, 0)` (R9). -/
def Cplx.ofReal (v : Real64) : Cplx := ⟨v, .zero⟩

def Cplx.isFinite (z : Cplx) : Bool := z.re.isFinite && z.im.isFinite

def Cplx.add (z w : Cplx) : Cplx := ⟨z.re.add w.re, z.im.add w.im⟩

/-- `(a,b)·(c,d) = (a·c − b·d, a·d + b·c)`. -/
def Cplx.mul (z w : Cplx) : Cplx :=
  ⟨(z.re.mul w.re).sub (z.im.mul w.im), (z.re.mul w.im).add (z.im.mul w.re)⟩

/-- A product with a real: each component. -/
def Cplx.scale (z : Cplx) (r : Real64) : Cplx := ⟨z.re.mul r, z.im.mul r⟩

def Cplx.conj (z : Cplx) : Cplx := ⟨z.re, z.im.neg⟩

def Cplx.swap (z : Cplx) : Cplx := ⟨z.im, z.re⟩

/-- `re·re + im·im`, of which `|z|` is the square root. -/
def Cplx.normSq (z : Cplx) : Real64 := (z.re.mul z.re).add (z.im.mul z.im)

/-- The real part as a sample, the reading of a cell by a command on real data (R85). -/
def Cplx.realPart (z : Cplx) : Cplx := .ofReal z.re

end Sys2Proof
end

