-- ==== Sys2Proof/Machine/Ops.lean ====
section
/-! DEFINITION. The named operations over sample memory, control registers, tables, banks and instances, and the shared ends of a
command: raising an error (spec/60_exceptions.md rules R443, R444), the ordered checks (R450), the allocation oracle (R446),
completing (spec/10_state.md rules R22, R41), truncation's counter (R448). -/

namespace Sys2Proof.Machine

/-- What a step answers. -/
abbrev Res := Host.Outcome State Fault Refusal

/-! ## Sizes (log 6) -/

/-- `NBANKS`. -/
def State.nbanks (s : State) : Nat := s.chans.length
/-- `NFILT`. -/
def State.nfilt (s : State) : Nat := s.fi.length
/-- `NHB`. -/
def State.nhb (s : State) : Nat := s.hb.length
/-- `NTAB`. -/
def State.ntab (s : State) : Nat := s.ct.length

/-! ## Sample memory (R37, R80 to R87): a list of cells in one canonical form -/

/-- What a cell that nothing has written reads as (log 8). -/
def unwritten : Cplx := .zero

/-- The cell at an address. -/
def Mem.read : Mem → Nat → Cplx
  | [], _ => unwritten
  | (b, v) :: m, a => if a = b then v else Mem.read m a

/-- The cell `(a, v)` before the rest of the memory, unless it reads as an unlisted cell does. -/
def Mem.cons (a : Nat) (v : Cplx) (m : Mem) : Mem :=
  if v = unwritten then m else (a, v) :: m

/-- Writing one cell keeps the addresses rising and lists no cell that reads as an unlisted one does. -/
def Mem.write (a : Nat) (v : Cplx) : Mem → Mem
  | [] => Mem.cons a v []
  | (b, w) :: m =>
    if a < b then Mem.cons a v ((b, w) :: m)
    else if a = b then Mem.cons a v m
    else (b, w) :: Mem.write a v m

/-- `MemRead(a, n)` (R13). -/
def Mem.readBlock (m : Mem) (a n : Nat) : List Cplx :=
  (List.range n).map fun i => m.read (a + i)

/-- `MemWrite(a, n, v)` (R13). -/
def Mem.writeBlock (m : Mem) (a : Nat) : List Cplx → Mem
  | [] => m
  | v :: vs => Mem.writeBlock (m.write a v) (a + 1) vs

/-- The canonical form: addresses strictly rising, no cell that reads as an unlisted one does. -/
def Mem.wf : Mem → Bool
  | [] => true
  | (a, v) :: m => decide (v ≠ unwritten) && (m.head?.all fun c => decide (a < c.1)) && Mem.wf m

/-! ## Coefficient tables (R36, R92, R93) -/

/-- `CT[t]`; a slot that does not exist holds no table. -/
def State.table (s : State) (t : Nat) : Option Table := s.ct.getD t none

/-- The table a bound instance resolves at the start of a command: `CT[tab]`, if its length is `N` (R93). -/
def State.tableFor (s : State) (f : FilterInst) : Option Table :=
  (s.table f.tab).filter fun t => t.val.length = f.taps

/-- The coefficients a bound instance resolves at the start of a command (R93). -/
def State.coefs (s : State) (f : FilterInst) : List Real64 :=
  ((s.tableFor f).map Table.val).getD []

/-! ## Instances and banks -/

/-- `FI[i]`. -/
def State.filter (s : State) (i : Nat) : FilterInst := s.fi.getD i {}
/-- `FI[i] <- f`. -/
def State.setFilter (s : State) (i : Nat) (f : FilterInst) : State := { s with fi := s.fi.set i f }
/-- `HB[i]`. -/
def State.half (s : State) (i : Nat) : HBInst := s.hb.getD i {}
/-- `HB[i] <- h`. -/
def State.setHalf (s : State) (i : Nat) (h : HBInst) : State := { s with hb := s.hb.set i h }

/-- Everything bank index `b` names. -/
def State.chan (s : State) (b : Nat) : Channel := s.chans.getD b {}
/-- `BANK[b]`. -/
def State.bank (s : State) (b : Nat) : Bank := (s.chan b).bank
/-- The configuration registers of bank `b` (R55). -/
def State.bankRegs (s : State) (b : Nat) : BankRegs := (s.chan b).cr
/-- `BANK[b] <- k`. -/
def State.setBank (s : State) (b : Nat) (k : Bank) : State :=
  { s with chans := s.chans.set b { s.chan b with bank := k } }
/-- `CR[ACH_RATE[b]] <- r`. -/
def State.setAchRate (s : State) (b : Nat) (r : Real64) : State :=
  { s with chans := s.chans.set b { s.chan b with achRate := r } }

/-! ## The ends of a command -/

/-- `raise E_X(info)` (R443, R444): `STATUS`, `R0`, `R1`, `ERR_CNT`, nothing else. -/
def State.raise (s : State) (e : Err) (info : Word64) : State :=
  { s with r0 := 0, r1 := info, cr := { s.cr with status := .ofErr e, errCnt := s.cr.errCnt + 1 } }

/-- One of the ordered checks of a command: what must hold, the error it raises otherwise, and what `R1` then records (R441). -/
structure Check where
  ok : Bool
  err : Err
  info : Word64 := 0

/-- The first check that fails (R450). -/
def firstFail : List Check → Option (Err × Word64)
  | [] => none
  | c :: cs => if c.ok then firstFail cs else some (c.err, c.info)

/-- A command: its checks in order, then its effect (R450). -/
def State.checked (s : State) (cs : List Check) (k : State → Res) : Res :=
  match firstFail cs with
  | some (e, info) => .next (s.raise e info)
  | none => k s

/-- The allocation oracle's answer (R446): the next answer of the environment, success when it has listed none (log 12). -/
def State.allocOk (s : State) : Bool := s.allocs.headD true

/-- The state once the oracle has been consulted. -/
def State.consulted (s : State) : State := { s with allocs := s.allocs.tail }

/-- A command that allocates when `need` holds consults the oracle once, after all its checks (R446), and raises `E_ALLOC` when
it answers failure. -/
def State.allocating (s : State) (need : Bool) (k : State → Res) : Res :=
  if need then
    if s.allocOk then k s.consulted else .next (s.consulted.raise .alloc 0)
  else k s

/-- A command that completes: `R0`, `R1`, `STATUS` (R22, R41), `XRUN_CNT` by the number of truncations (R448), and the next serial
number for free values (log 13). -/
def State.finish (s : State) (r0 r1 : Word64) (truncs : Nat) : State :=
  { s with
      r0 := r0, r1 := r1
      cr := { s.cr with status := .ofTrunc (decide (truncs ≠ 0)), xrunCnt := s.cr.xrunCnt + BitVec.ofNat 32 truncs }
      draws := s.draws + 1 }

/-- A command without sample output that completes: `R0 <- 0; R1 <- 0; STATUS <- 0`. -/
def State.finishInit (s : State) : State := s.finish 0 0 0

/-- A command on a buffer that completes: it writes its outputs from `base` on, `R0` is their number (R87). -/
def State.finishBuf (s : State) (base : Nat) (out : List Cplx) (truncs : Nat) : State :=
  { s with sm := s.sm.writeBlock base out }.finish (BitVec.ofNat 64 out.length) 0 truncs

/-! ## Control registers (R40 to R58) -/

/-- A Bool as a one-bit register. -/
def bit (b : Bool) : Nat := if b then 1 else 0

/-- The per-bank configuration register `k` (R55). -/
def BankRegs.read (r : BankRegs) (k : Nat) : Word64 :=
  match k with
  | 0 => r.mode.setWidth 64
  | 1 => r.tune.bits
  | 2 => r.rxfTab.setWidth 64
  | 3 => r.rxfBw.bits
  | 4 => r.rxfFreq.bits
  | _ => 0

/-- Writing the per-bank configuration register `k` (R55): reserved numbers and bits ignore writes. -/
def BankRegs.write (r : BankRegs) (k : Nat) (w : Word64) : BankRegs :=
  match k with
  | 0 => { r with mode := w.setWidth 8 }
  | 1 => { r with tune := ⟨w⟩ }
  | 2 => { r with rxfTab := w.setWidth 16 }
  | 3 => { r with rxfBw := ⟨w⟩ }
  | 4 => { r with rxfFreq := ⟨w⟩ }
  | _ => r

/-- The global control registers by number (R41 to R56); every other number reads 0. -/
def CtrlRegs.read (c : CtrlRegs) (n : Nat) : Word64 :=
  match n with
  | 0x000 => c.status.word
  | 0x001 => c.rateIn.setWidth 64
  | 0x002 => c.nrx.setWidth 64
  | 0x003 => c.nbLevel.setWidth 64
  | 0x004 => BitVec.ofNat 64 (bit c.notchEn)
  | 0x005 => c.squelchThr.bits
  | 0x006 => c.agcMaxOut.bits
  | 0x007 => c.agcRelTime.bits
  | 0x008 => c.agcRelGain.bits
  | 0x009 => c.ctcssFreq.bits
  | 0x00A => c.micPreemph.bits
  | 0x00B => c.micClip.bits
  | 0x00C => c.micVox.bits
  | 0x00D => BitVec.ofNat 64 (bit c.keyDown + 2 * bit c.keyTone)
  | 0x00E => c.holdDelay.bits
  | 0x00F => c.sidetoneFreq.bits
  | 0x300 => c.ovrCnt.setWidth 64
  | 0x301 => c.smeter.bits
  | 0x302 => c.audioRms.bits
  | 0x303 => c.agcGain.bits
  | 0x304 => c.notchBin0.setWidth 64
  | 0x305 => c.notchBin1.setWidth 64
  | 0x306 => c.errCnt.setWidth 64
  | 0x307 => c.xrunCnt.setWidth 64
  | _ => 0

/-- A host write to a global configuration register (R40): `STATUS`, telemetry and unlisted numbers ignore it. -/
def CtrlRegs.write (c : CtrlRegs) (n : Nat) (w : Word64) : CtrlRegs :=
  match n with
  | 0x001 => { c with rateIn := w.setWidth 8 }
  | 0x002 => { c with nrx := w.setWidth 8 }
  | 0x003 => { c with nbLevel := w.setWidth 2 }
  | 0x004 => { c with notchEn := w.getLsbD 0 }
  | 0x005 => { c with squelchThr := ⟨w⟩ }
  | 0x006 => { c with agcMaxOut := ⟨w⟩ }
  | 0x007 => { c with agcRelTime := ⟨w⟩ }
  | 0x008 => { c with agcRelGain := ⟨w⟩ }
  | 0x009 => { c with ctcssFreq := ⟨w⟩ }
  | 0x00A => { c with micPreemph := ⟨w⟩ }
  | 0x00B => { c with micClip := ⟨w⟩ }
  | 0x00C => { c with micVox := ⟨w⟩ }
  | 0x00D => { c with keyDown := w.getLsbD 0, keyTone := w.getLsbD 1 }
  | 0x00E => { c with holdDelay := ⟨w⟩ }
  | 0x00F => { c with sidetoneFreq := ⟨w⟩ }
  | _ => c

/-- Where a control-register number belongs (R58). -/
inductive CRHome where
  | perBank (b k : Nat)
  | achRate (b : Nat)
  | global

/-- The register map of R58 for an engine of `nbanks` banks. -/
def crHome (nbanks n : Nat) : CRHome :=
  if 0x100 ≤ n ∧ n < 0x100 + 8 * nbanks then .perBank ((n - 0x100) / 8) ((n - 0x100) % 8)
  else if 0x310 ≤ n ∧ n < 0x310 + nbanks then .achRate (n - 0x310)
  else .global

/-- `ReadCR(n)` (R40). -/
def State.readCR (s : State) (n : Nat) : Word64 :=
  match crHome s.nbanks n with
  | .perBank b k => (s.bankRegs b).read k
  | .achRate b => (s.chan b).achRate.bits
  | .global => s.cr.read n

/-- `WriteCR(n, w)` (R40). -/
def State.writeCR (s : State) (n : Nat) (w : Word64) : State :=
  match crHome s.nbanks n with
  | .perBank b k => { s with chans := s.chans.set b { s.chan b with cr := (s.bankRegs b).write k w } }
  | .achRate _ => s
  | .global => { s with cr := s.cr.write n w }

/-- A notch target as `NOTCH_BIN0`, `NOTCH_BIN1` show it (R56). -/
def notchBin (t : Option Nat) : Word32 :=
  match t with
  | some p => BitVec.ofNat 32 p
  | none => 0xFFFFFFFF

end Sys2Proof.Machine
end

