-- ==== Sys2Proof/Machine/Operands.lean ====
section
/-! DEFINITION. Operand assembly (spec/30_encoding.md rules R122, R123, R125), the extent and bounds of a buffer operand
(spec/20_memory.md rule R86), and the checks these rules share between commands, in the order of spec/60_exceptions.md
rule R450. -/

namespace Sys2Proof.Machine

/-! ## Integer and real operands (R125): the full 64 bits of a register -/

/-- The buffer base `a`, table id `t` or input base of formats B, R, Q, S, C, P. -/
def State.opA (s : State) : Nat := s.a0.toNat
/-- The sample count `n` or tap count `N`. -/
def State.opN (s : State) : Nat := s.a1.toNat
/-- `ratio`, `interp` or the output base `o`. -/
def State.op2 (s : State) : Nat := s.a2.toNat
/-- `decim`. -/
def State.op3 (s : State) : Nat := s.a3.toNat
/-- The real operand of format T. -/
def State.opReal (s : State) : Real64 := ⟨s.a0⟩
/-- The real operand `step` of format S. -/
def State.opStep (s : State) : Real64 := ⟨s.a2⟩

/-- The command's `id` as `R1` records it (R441). -/
def idInfo (id : Nat) : Word64 := BitVec.ofNat 64 id

/-! ## Checks -/

/-- `ID` names an existing instance or bank (R122). -/
def idCheck (id count : Nat) : Check := ⟨decide (id < count), .param, 0⟩

/-- `n ≤ MAXBLOCK` (R86, R125); `R1` records `n`. -/
def State.sizeCheck (s : State) : Check := ⟨decide (s.opN ≤ s.cfg.maxBlock), .size, s.a1⟩

/-- A ratio operand lies in `1 .. MAXTAPS` (R125). -/
def State.ratioCheck (s : State) (r : Nat) : Check := ⟨decide (1 ≤ r ∧ r ≤ s.cfg.maxTaps), .param, 0⟩

/-- A real operand is finite (R125). -/
def finiteCheck (x : Real64) : Check := ⟨x.isFinite, .param, 0⟩

/-- `a + e ≤ SMSIZE` (R86); `R1` records the base address. -/
def State.boundsCheck (s : State) (base : Word64) (e : Nat) : Check :=
  ⟨decide (base.toNat + e ≤ s.cfg.smSize), .bounds, base⟩

/-- The instance or component is bound (R164, R67); `R1` records the `id`. -/
def boundCheck (b : Bool) (id : Nat) : Check := ⟨b, .unbound, idInfo id⟩

/-- The table an instance references resolves with its length (R93); `R1` records the table id. -/
def State.tableCheck (s : State) (f : FilterInst) : Check :=
  ⟨(s.tableFor f).isSome, .table, BitVec.ofNat 64 f.tab⟩

/-- A table slot holds a table; `R1` records the table id. -/
def State.slotCheck (s : State) (t : Nat) : Check :=
  ⟨(s.table t).isSome, .table, BitVec.ofNat 64 t⟩

/-! ## Extents (R86): the largest number of cells from the base a command may read or write -/

/-- A command that never produces more outputs than inputs. -/
def extentSame (n : Nat) : Nat := n

/-- A command that produces at most `m` outputs for `n` inputs, cut at `MAXBLOCK`. -/
def State.extentUp (s : State) (n m : Nat) : Nat := max n (min m s.cfg.maxBlock)

/-! ## Reading and writing a buffer by the instance's sample type (R85) -/

/-- `MemRead(a, n)`, or `MemReadReal(a, n)` with each value as `(v, 0)`. -/
def State.input (s : State) (v : Variant) : List Cplx :=
  let x := s.sm.readBlock s.opA s.opN
  match v with
  | .cplx => x
  | .real => x.map Cplx.realPart

/-- What a command writes: the samples, or their real parts as `(v, 0)`. -/
def outputAs (v : Variant) (y : List Cplx) : List Cplx :=
  match v with
  | .cplx => y
  | .real => y.map Cplx.realPart

end Sys2Proof.Machine
end

