-- ==== Sys2Proof/Machine/Free.lean ====
section
/-! DEFINITION. What a command leaves when a sample, coefficient or configuration value it read is NaN or infinite
(spec/00_scope.md rule R11, U3; log 3): every Real64 it writes is a free value, and everything else is as the rules say. A run
over a sequence of samples therefore carries the component it leaves twice: as the rules compute it, and with the Real64
values it wrote replaced. -/

namespace Sys2Proof.Machine

/-- The name of a Real64 value inside one command: it makes free values at different places unrelated. -/
abbrev Place := List Nat

/-- Where the values of a command can stand. -/
def placeOut : Place := [0]
def placeFilter : Place := [1]
def placeHalf : Place := [2]
def placeChain : Place := [3]
def placeFrac : Place := [4]
def placeNb : Place := [5]
def placeDemod : Place := [6]
def placeAgc : Place := [7]
def placeNotch : Place := [8]
def placeRestore : Place := [9]
def placeKey : Place := [10]
def placeMix : Place := [11]
def placeTelemetry : Place := [12]

/-- A free sample. -/
def freeCplx (ser : Nat) (p : Place) : Cplx :=
  ⟨Config.freeReal ser (0 :: p), Config.freeReal ser (1 :: p)⟩

/-- A free sample of an instance's sample type: a real one is `(v, 0)` (R9, R32). -/
def freeSample (ser : Nat) (p : Place) : Variant → Cplx
  | .cplx => freeCplx ser p
  | .real => .ofReal (Config.freeReal ser (0 :: p))

/-- A list of samples with the entries where `written` holds replaced. -/
def freeSamples (ser : Nat) (p : Place) (v : Variant) (written : Nat → Bool) (l : List Cplx) : List Cplx :=
  l.mapIdx fun i z => if written i then freeSample ser (i :: p) v else z

/-- A list of reals with the entries where `written` holds replaced. -/
def freeReals (ser : Nat) (p : Place) (written : Nat → Bool) (l : List Real64) : List Real64 :=
  l.mapIdx fun i z => if written i then Config.freeReal ser (i :: p) else z

/-- Whether index `i` of a circular buffer of `len` entries is among the `count` written from `start` on. -/
def circWritten (start count len i : Nat) : Bool := decide ((i + len - start) % len < count)

/-- Every entry. -/
def allWritten (_ : Nat) : Bool := true

/-- What running a component over a sequence of samples leaves. -/
structure Run (σ : Type) where
  /-- The component, as the rules compute it. -/
  st : σ
  /-- The component with every Real64 the run wrote replaced by a free value. -/
  freed : σ
  /-- The output sequence. -/
  out : List Cplx
  /-- Some sample or coefficient it read is NaN or infinite. -/
  bad : Bool
  /-- It stopped at `MAXBLOCK` outputs (R448). -/
  trunc : Bool := false

/-- The component a command commits. -/
def Run.commit {σ : Type} (r : Run σ) (bad : Bool) : σ := if bad then r.freed else r.st

/-- The output sequence of a command, free where it read a value that is not finite. -/
def emitted (ser : Nat) (v : Variant) (bad : Bool) (out : List Cplx) : List Cplx :=
  if bad then freeSamples ser placeOut v allWritten (outputAs v out) else outputAs v out

/-- Some sample of a sequence is NaN or infinite. -/
def anyNonFinite (x : List Cplx) : Bool := x.any fun z => !z.isFinite

/-- Some value of a sequence is NaN or infinite. -/
def anyNonFiniteReal (x : List Real64) : Bool := x.any fun v => !v.isFinite

end Sys2Proof.Machine
end

