-- ==== Sys2Proof/Machine/Numerics.lean ====
section
/-! DEFINITION. The functions of `Numerics` and the orchestrator's parameter functions, as the configuration gives them
(spec/00_scope.md rule R12, spec/47_orchestrator.md rules R410, R411): at a listed argument the listed value, elsewhere the
constant without a body (log 4, log 20). -/

namespace Sys2Proof

def Params.exp (p : Params) (x : Real64) : Real64 := (p.num.exp.lookup x).getD (Config.exp x)
def Params.cos (p : Params) (x : Real64) : Real64 := (p.num.cos.lookup x).getD (Config.cos x)
def Params.sin (p : Params) (x : Real64) : Real64 := (p.num.sin.lookup x).getD (Config.sin x)
def Params.sqrt (p : Params) (x : Real64) : Real64 := (p.num.sqrt.lookup x).getD (Config.sqrt x)
def Params.atan2 (p : Params) (y x : Real64) : Real64 := (p.num.atan2.lookup (y, x)).getD (Config.atan2 y x)

/-- `fft(x)` as a sequence of the length of `x`. -/
def Params.fft (p : Params) (x : List Cplx) : List Cplx :=
  match p.num.fft.lookup x with
  | some y => (List.range x.length).map fun k => y.getD k .zero
  | none => (List.range x.length).map (Config.fft x)

/-- `ifft(X)` as a sequence of the length of `X`. -/
def Params.ifft (p : Params) (x : List Cplx) : List Cplx :=
  match p.num.ifft.lookup x with
  | some y => (List.range x.length).map fun k => y.getD k .zero
  | none => (List.range x.length).map (Config.ifft x)

/-- `|z| = sqrt(re·re + im·im)` (R9). -/
def Params.mag (p : Params) (z : Cplx) : Real64 := p.sqrt z.normSq

/-- `cexp(t) = (cos t, sin t)` (R12). -/
def Params.cexp (p : Params) (t : Real64) : Cplx := ⟨p.cos t, p.sin t⟩

def Params.squelchOpen (p : Params) (thr : Real64) (sig : List Cplx) (mode : Nat) : Bool :=
  p.squelch.getD (Config.squelchOpen thr sig mode)

def Params.measureSmeter (p : Params) (sig : List Cplx) : Real64 := p.smeter.getD (Config.measureSmeter sig)

def Params.measureRms (p : Params) (x : List Cplx) : Real64 := p.rms.getD (Config.measureRms x)

end Sys2Proof
end

