-- ==== Sys2Proof/Machine/Agc.lean ====
section
/-! DEFINITION. The look-ahead AGC (spec/44_agc.md): the per-sample step of rule R303 and the commands AGCINIT (R301) and
AGCRUN (R303, R305, R306, R307). -/

namespace Sys2Proof.Machine

/-! ## One sample (R303) -/

/-- `level(v)`: `|v|` of a complex sample, the absolute value of a real one. -/
def Params.level (p : Params) (cx : Bool) (z : Cplx) : Real64 := if cx then p.mag z else z.re.abs

/-- Steps 1 and 2 before the limiter: the delayed sample times the current gain. -/
def AGCState.delayed (g : AGCState) : Cplx := (g.buf.getD g.indexRead .zero).scale g.gain

/-- Step 2: whether the hard limiter clamps a sample. -/
def overrange (p : Params) (cx : Bool) (z : Cplx) : Bool := p.clip.lt (Params.level p cx z)

/-- Step 2: a sample normalised to full scale when it exceeds it (R307). -/
def limited (p : Params) (cx : Bool) (z : Cplx) : Cplx :=
  if overrange p cx z then z.scale (p.clip.div (Params.level p cx z)) else z

/-- Step 3: the new sample takes the place of the one just read, and the peak is tracked. -/
def AGCState.stored (g : AGCState) (x : Cplx) (lev : Real64) : AGCState :=
  { g with buf := g.buf.set g.indexRead x, maxMag := if g.maxMag.lt lev then lev else g.maxMag }

/-- Step 4: whether a clip correction begins or deepens. -/
def AGCState.triggers (g : AGCState) (mo lev : Real64) : Bool :=
  mo.lt (lev.mul (if g.clipping then g.targetGain else g.gain))

/-- Step 4: the new target and ramp. -/
def AGCState.corrected (g : AGCState) (mo lev : Real64) : AGCState :=
  let t := mo.div lev
  { g with targetGain := t, delta := (g.gain.sub t).div (.ofNat g.len), clipping := true }

/-- Step 5: the linear ramp while correcting, exponential smoothing otherwise. -/
def AGCState.gainStep (g : AGCState) : AGCState :=
  if g.clipping then
    let v := g.gain.sub g.delta
    if v.le g.targetGain then { g with gain := g.targetGain, clipping := false } else { g with gain := v }
  else { g with gain := g.gain.add ((g.targetGain.sub g.gain).mul g.alpha) }

/-- Step 6: the cursor. -/
def AGCState.stepCursor (g : AGCState) : AGCState := { g with indexRead := (g.indexRead + 1) % g.len }

/-- Step 6: whether a revolution ends with no correction running. -/
def AGCState.revolves (g : AGCState) : Bool := decide (g.indexRead = g.indexStart) && !g.clipping

/-- Step 6: the release target of a revolution; the release gain when the other value is NaN (DESIGN CHOICE, log 34). -/
def AGCState.released (p : Params) (rg : Real64) (g : AGCState) : AGCState :=
  let t := p.clip.div g.maxMag
  { g with
      targetGain := if g.maxMag.eqv .zero then rg else if g.fm then t else rg.min t
      maxMag := .zero }

/-- What one sample leaves: the state, the output, whether it was clamped, and which of the conditional Real64 fields it wrote. -/
structure AgcStep where
  g : AGCState
  out : Cplx
  limit : Bool
  trig : Bool
  peak : Bool
  rev : Bool

/-- The six steps of R303 on one sample. -/
def agcStep (p : Params) (cx : Bool) (mo rg : Real64) (g : AGCState) (x : Cplx) : AgcStep :=
  let o := g.delayed
  let lev := Params.level p cx x
  let g1 := g.stored x lev
  let trig := g1.triggers mo lev
  let g2 := if trig then g1.corrected mo lev else g1
  let g3 := g2.gainStep.stepCursor
  let rev := g3.revolves
  { g := if rev then g3.released p rg else g3, out := limited p cx o, limit := overrange p cx o,
    trig := trig, peak := g.maxMag.lt lev, rev := rev }

/-! ## The loop -/

/-- What the loop of AGCRUN leaves: `clamped` counts the hard-limited samples (R306), `trig`, `peak`, `rev` say whether any sample
wrote the conditional fields. -/
structure AgcLoop where
  g : AGCState
  out : List Cplx
  clamped : Nat
  trig : Bool
  peak : Bool
  rev : Bool
  bad : Bool

def agcLoop (p : Params) (cx : Bool) (mo rg : Real64) : AGCState → List Cplx → AgcLoop
  | g, [] => ⟨g, [], 0, false, false, false, false⟩
  | g, x :: xs =>
    let r := agcStep p cx mo rg g x
    let q := agcLoop p cx mo rg r.g xs
    ⟨q.g, r.out :: q.out, q.clamped + bit r.limit, r.trig || q.trig, r.peak || q.peak, r.rev || q.rev,
      !(g.buf.getD g.indexRead .zero).isFinite || q.bad⟩

/-- The release smoothing factor `1 − exp(−1 / (AGC_RELTIME · fs))` (R305). -/
def agcAlpha (p : Params) (tr fs : Real64) : Real64 :=
  Real64.one.sub (p.exp (Real64.one.neg.div (tr.mul fs)))

/-- The state with every Real64 the loop wrote replaced (log 3). -/
def AGCState.freed (ser : Nat) (v : Variant) (start n : Nat) (r : AgcLoop) : AGCState :=
  let p := placeAgc
  { r.g with
      buf := freeSamples ser (0 :: p) v (circWritten start n r.g.len) r.g.buf
      alpha := Config.freeReal ser (1 :: p)
      gain := if n = 0 then r.g.gain else Config.freeReal ser (2 :: p)
      targetGain := if r.trig || r.rev then Config.freeReal ser (3 :: p) else r.g.targetGain
      delta := if r.trig then Config.freeReal ser (4 :: p) else r.g.delta
      maxMag := if r.peak || r.rev then Config.freeReal ser (5 :: p) else r.g.maxMag }

/-- An AGC run over a sequence, with the number of samples it clamped. -/
structure AgcRun extends Run AGCState where
  clamped : Nat

/-- AGCRUN over a sequence (R303), with the registers of its snapshot. -/
def State.runAgc (s : State) (g : AGCState) (cx : Bool) (x : List Cplx) : AgcRun :=
  let v : Variant := if cx then .cplx else .real
  let r := agcLoop s.cfg cx s.cr.agcMaxOut s.cr.agcRelGain { g with alpha := agcAlpha s.cfg s.cr.agcRelTime g.fs } x
  { st := r.g, freed := AGCState.freed s.draws v g.indexRead x.length r, out := outputAs v r.out,
    bad := anyNonFinite x || r.bad, clamped := r.clamped }

/-- A register or operand that must be finite and greater than 0. -/
def posCheck (x : Real64) : Check := ⟨x.isPos, .param, 0⟩

/-- The register checks of AGCRUN (R303). -/
def State.agcChecks (s : State) : List Check :=
  [posCheck s.cr.agcMaxOut, posCheck s.cr.agcRelGain, posCheck s.cr.agcRelTime]

/-- `OVR_CNT` after a run (R306), and `AGC_GAIN` when the bank is the primary one (R56). -/
def CtrlRegs.afterAgc (c : CtrlRegs) (b clamped : Nat) (gain : Real64) : CtrlRegs :=
  { c with
      ovrCnt := c.ovrCnt + BitVec.ofNat 32 clamped
      agcGain := if b = 0 then gain else c.agcGain }

/-! ## The commands -/

/-- The look-ahead in samples, `floor(AGC_LOOKAHEAD · fs + 0.5)` (R301). -/
def Params.agcLen (p : Params) (fs : Real64) : Option Int := (p.agcLookahead.mul fs).roundHalfUp?

/-- A freshly configured AGC (R301). -/
def AGCState.fresh (fs rg : Real64) (len : Nat) (fm : Bool) : AGCState :=
  { valid := true, len := len, buf := List.replicate len .zero, gain := rg, targetGain := rg, fs := fs, fm := fm }

/-- AGCINIT (R301). -/
def execAgcinit (f : Bool) (id : Nat) (s : State) : Res :=
  let fs := s.opReal
  let len := Params.agcLen s.cfg fs
  s.checked
    [ idCheck id s.nbanks, posCheck fs, posCheck s.cr.agcRelGain,
      ⟨len.any fun l => 1 ≤ l ∧ l ≤ (s.cfg.maxBlock : Int), .param, 0⟩ ]
    fun s => s.allocating true fun s =>
      let agc := AGCState.fresh fs s.cr.agcRelGain (len.getD 0).toNat f
      .next (s.setBank id { s.bank id with agc := agc }).finishInit

/-- AGCRUN (R303). -/
def execAgcrun (x : Bool) (id : Nat) (s : State) : Res :=
  let g := (s.bank id).agc
  s.checked
    ([idCheck id s.nbanks, s.sizeCheck, s.boundsCheck s.a0 (extentSame s.opN), boundCheck g.valid id] ++ s.agcChecks)
    fun s =>
      let v : Variant := if x then .cplx else .real
      let r := s.runAgc g x (s.input v)
      let g' := r.commit r.bad
      let out := emitted s.draws v r.bad r.out
      let t := s.setBank id { s.bank id with agc := g' }
      .next ({ t with cr := t.cr.afterAgc id r.clamped g'.gain }.finishBuf s.opA out 0)

end Sys2Proof.Machine
end

