-- ==== Sys2Proof/Machine/AutoNotch.lean ====
section
/-! DEFINITION. The auto-notch canceller (spec/46_auto_notch.md): the running average (R365), the candidates (R366), the hysteresis
(R367), the kernel (R368), the overlap-save loop (R363), and the commands ANINIT (R361) and ANRUN (R363, R364). -/

namespace Sys2Proof.Machine

/-! ## Analysis -/

/-- The running average of the bin magnitudes (R365). -/
def notchAverage (p : Params) (avg : List Real64) (x : List Cplx) : List Real64 :=
  avg.mapIdx fun k a => a.add (p.anBeta.mul ((p.mag (x.getD k .zero)).sub a))

/-- The bin of the active sidetone or RIT frequency (R366); none when there is none. The floor of a value that is not finite is a
free integer (log 23). -/
def sidetoneBin (p : Params) (ser : Nat) (freq fs : Real64) : Option Int :=
  if freq.abs.eqv .zero then none
  else some (((freq.abs.mul (.ofNat p.anNfft)).div fs).roundHalfUp?.getD (Config.freeInt ser (0 :: placeNotch)))

/-- A bin outside the exclusion zone of the sidetone (R366). -/
def binAllowed (p : Params) (ks : Option Int) (k : Nat) : Bool :=
  match ks with
  | none => true
  | some c => decide ((p.anExclTone : Int) < ((k : Int) - c).natAbs)

/-- The bin of a list with the largest average, the lowest index on ties (R366). A comparison with a NaN keeps the earlier bin
(DESIGN CHOICE, log 32). -/
def loudest (avg : List Real64) : List Nat → Option Nat
  | [] => none
  | k :: ks => some (ks.foldl (fun best j => if (avg.getD best .zero).lt (avg.getD j .zero) then j else best) k)

/-- The searchable bins that are allowed (R366): `1 .. M div 2 − 1`. -/
def searchBins (p : Params) (ks : Option Int) : List Nat :=
  (List.range (p.anNfft / 2)).filter fun k => decide (1 ≤ k) && binAllowed p ks k

/-- The second candidate's bins: outside the exclusion zone of the first (R366). -/
def peerBins (p : Params) (bins : List Nat) (first : Nat) : List Nat :=
  bins.filter fun k => decide (p.anExclPeer < ((k : Int) - (first : Int)).natAbs)

/-- The two candidates `p[0]`, `p[1]` (R366). -/
def candidates (p : Params) (ks : Option Int) (avg : List Real64) : Option Nat × Option Nat :=
  let bins := searchBins p ks
  match loudest avg bins with
  | none => (none, none)
  | some k => (some k, loudest avg (peerBins p bins k))

/-- The candidate stayed within the tolerance of its previous value (R367). -/
def slotStable (p : Params) (cand : Option Nat) (s : NotchSlot) : Bool :=
  match cand with
  | none => false
  | some q => decide (0 ≤ s.prev ∧ ((q : Int) - s.prev).natAbs ≤ p.anTol)

/-- The hysteresis of one slot (R367): count, record the candidate, accept, release. -/
def NotchSlot.update (p : Params) (cand : Option Nat) (s : NotchSlot) : NotchSlot :=
  let cnt := if slotStable p cand s then min (s.cnt + 1) p.anHmax else max (s.cnt - 1) p.anHmin
  let prev : Int := match cand with
    | none => -1
    | some q => (q : Int)
  let accepted := if p.anHacc ≤ cnt ∧ cand.isSome then cand else s.tgt
  { s with cnt := cnt, prev := prev, tgt := if cnt ≤ p.anHmin then none else accepted }

/-! ## The kernel (R368) -/

/-- Bin `k` of the frequency response is zeroed for the target `t`: within the half-width of it, or the mirror image of such a
bin. -/
def binZeroed (p : Params) (t : Option Nat) (k : Nat) : Bool :=
  match t with
  | none => false
  | some q =>
    let near (j : Nat) : Bool := decide (((j : Int) - (q : Int)).natAbs ≤ p.anHalfwidth ∧ j ≤ p.anNfft / 2)
    near k || near ((p.anNfft - k) % p.anNfft)

/-- The unity response with the targets' bins and their mirrors zeroed. -/
def notchResponse (p : Params) (t0 t1 : Option Nat) : List Cplx :=
  (List.range p.anNfft).map fun k =>
    if binZeroed p t0 k || binZeroed p t1 k then .zero else .ofReal .one

/-- The Hanning window of length `K` at `n`. -/
def hanning (p : Params) (n : Nat) : Real64 :=
  Real64.half.sub
    (Real64.half.mul (p.cos (((Real64.two.mul .pi).mul (.ofNat n)).div (.ofNat (p.anKg - 1)))))

/-- The time-domain kernel: recentred on tap `c = (K − 1)/2` and windowed. -/
def notchTaps (p : Params) (t0 t1 : Option Nat) : List Real64 :=
  let h := p.ifft (notchResponse p t0 t1)
  let c := (p.anKg - 1) / 2
  (List.range p.anKg).map fun n =>
    (h.getD ((n + p.anNfft - c) % p.anNfft) .zero).re.mul (hanning p n)

/-- `build_kernel(tgt)` (R368): the kernel, zero-padded and transformed. -/
def buildKernel (p : Params) (t0 t1 : Option Nat) : List Cplx :=
  let g := notchTaps p t0 t1
  p.fft ((List.range p.anNfft).map fun n => .ofReal (g.getD n .zero))

/-! ## The loop (R363) -/

/-- A new sample enters the hop. -/
def NotchState.collect (p : Params) (t : NotchState) (v : Real64) : NotchState :=
  { t with blk := t.blk.set (p.anNfft - p.anB + t.fill) v, fill := t.fill + 1 }

/-- The analysis of a completed hop: average, candidates, hysteresis (R365 to R367). -/
def NotchState.analysed (p : Params) (ks : Option Int) (x : List Cplx) (t : NotchState) : NotchState :=
  let avg := notchAverage p t.avg x
  let c := candidates p ks avg
  { t with avg := avg, slot0 := t.slot0.update p c.1, slot1 := t.slot1.update p c.2 }

/-- The accepted targets are not those the cached kernel was built for (R363). -/
def NotchState.staleKernel (t : NotchState) : Bool :=
  decide (t.slot0.tgt ≠ t.slot0.builtFor ∨ t.slot1.tgt ≠ t.slot1.builtFor)

/-- The kernel rebuilt when its targets changed (R363, R368). -/
def NotchState.rebuilt (p : Params) (t : NotchState) : NotchState :=
  if t.staleKernel then
    { t with
        kernel := buildKernel p t.slot0.tgt t.slot1.tgt
        slot0 := { t.slot0 with builtFor := t.slot0.tgt }
        slot1 := { t.slot1 with builtFor := t.slot1.tgt } }
  else t

/-- The last `B` real samples of the circular convolution (R363). -/
def hopOutput (p : Params) (x g : List Cplx) : List Real64 :=
  let y := p.ifft (x.mapIdx fun k z => z.mul (g.getD k .zero))
  (List.range p.anB).map fun i => (y.getD (p.anNfft - p.anB + i) .zero).re

/-- `extra_delay` over a hop: a first-in first-out line of `AN_EXTRA_DELAY` samples (R363). -/
def delayLine : List Real64 → List Real64 → List Real64 × List Real64
  | dly, [] => (dly, [])
  | [], v :: vs =>
    let r := delayLine [] vs
    (r.1, v :: r.2)
  | d :: ds, v :: vs =>
    let r := delayLine (ds ++ [v]) vs
    (r.1, d :: r.2)

/-- The slide after a hop: the last `M − B` samples are kept (R363). -/
def slide (p : Params) (blk : List Real64) : List Real64 :=
  blk.mapIdx fun i v => if i < p.anNfft - p.anB then blk.getD (i + p.anB) .zero else v

/-- A completed hop: the state after it and its `B` outputs. -/
def NotchState.hop (p : Params) (ks : Option Int) (t : NotchState) : NotchState × List Real64 :=
  let x := p.fft (t.blk.map Cplx.ofReal)
  let u := (t.analysed p ks x).rebuilt p
  let d := delayLine t.dly (hopOutput p x u.kernel)
  ({ u with dly := d.1, blk := slide p t.blk, fill := 0 }, d.2)

/-- A completed hop reads a sample or a kernel coefficient that is not finite. Of a delay line it reads the entries it takes out, one
for each of its `B` outputs (R363), also one that the same hop has stored (DESIGN CHOICE, log 3). -/
def NotchState.hopBad (p : Params) (ks : Option Int) (t : NotchState) : Bool :=
  let h := t.hop p ks
  anyNonFiniteReal t.blk || (!t.dly.isEmpty && anyNonFiniteReal h.2) || anyNonFinite h.1.kernel

/-- What the loop of ANRUN leaves; `eaten` counts the inputs consumed, `hops` the completed hops, `built` says whether the kernel
was rebuilt. -/
structure NotchLoop where
  t : NotchState
  out : List Cplx
  bad : Bool
  trunc : Bool
  eaten : Nat
  hops : Nat
  built : Bool

/-- The loop of ANRUN (R363); `room` is how many outputs `MAXBLOCK` still admits. -/
def notchLoop (p : Params) (ks : Option Int) : Nat → NotchState → List Cplx → NotchLoop
  | _, t, [] => ⟨t, [], false, false, 0, 0, false⟩
  | room, t, x :: xs =>
    if t.fill + 1 = p.anB ∧ room < p.anB then ⟨t, [], false, true, 0, 0, false⟩
    else
      let u := t.collect p x.re
      if u.fill = p.anB then
        let h := u.hop p ks
        let q := notchLoop p ks (room - p.anB) h.1 xs
        ⟨q.t, h.2.map Cplx.ofReal ++ q.out, u.hopBad p ks || q.bad, q.trunc, q.eaten + 1, q.hops + 1,
          (u.analysed p ks (p.fft (u.blk.map Cplx.ofReal))).staleKernel || q.built⟩
      else
        let q := notchLoop p ks room u xs
        ⟨q.t, q.out, q.bad, q.trunc, q.eaten + 1, q.hops, q.built⟩

/-- Whether cell `i` of the block buffer was written: the hop's cells by the inputs, the others by the slide. -/
def blkWritten (p : Params) (fill0 eaten hops i : Nat) : Bool :=
  if i < p.anNfft - p.anB then decide (hops ≠ 0)
  else circWritten fill0 eaten p.anB (i - (p.anNfft - p.anB))

/-- The notch with every Real64 the loop wrote replaced (log 3). -/
def NotchState.freed (p : Params) (ser fill0 : Nat) (r : NotchLoop) : NotchState :=
  let pl := placeNotch
  let fresh := p.anB * r.hops
  { r.t with
      blk := freeReals ser (1 :: pl) (blkWritten p fill0 r.eaten r.hops) r.t.blk
      avg := if r.hops = 0 then r.t.avg else freeReals ser (2 :: pl) allWritten r.t.avg
      kernel := if r.built then freeSamples ser (3 :: pl) .cplx allWritten r.t.kernel else r.t.kernel
      dly := freeReals ser (4 :: pl) (fun i => decide (r.t.dly.length ≤ i + fresh)) r.t.dly }

/-- ANRUN over a sequence (R363): `SIDETONE_FREQ` is read once, at the start (R366). -/
def State.runNotch (s : State) (t : NotchState) (x : List Cplx) : Run NotchState :=
  let r := notchLoop s.cfg (sidetoneBin s.cfg s.draws s.cr.sidetoneFreq t.fs) s.cfg.maxBlock t x
  { st := r.t, freed := NotchState.freed s.cfg s.draws t.fill r, out := r.out
    bad := anyNonFinite x || !s.cr.sidetoneFreq.isFinite || r.bad, trunc := r.trunc }

/-- `NOTCH_BIN0` and `NOTCH_BIN1` show the accepted targets (R56, R363). -/
def CtrlRegs.showNotch (c : CtrlRegs) (t : NotchState) : CtrlRegs :=
  { c with notchBin0 := notchBin t.slot0.tgt, notchBin1 := notchBin t.slot1.tgt }

/-! ## The commands -/

/-- A slot after ANINIT (R361). -/
def NotchSlot.fresh (p : Params) : NotchSlot := { prev := -1, cnt := p.anHmin, tgt := none, builtFor := none }

/-- A freshly initialised notch (R361). -/
def NotchState.fresh (p : Params) (fs : Real64) : NotchState :=
  { valid := true, fs := fs
    blk := List.replicate p.anNfft .zero, fill := 0
    avg := List.replicate (p.anNfft / 2 + 1) .zero
    slot0 := .fresh p, slot1 := .fresh p
    kernel := buildKernel p none none
    dly := List.replicate p.anExtraDelay .zero }

/-- The notch exists on bank 0 only (R364). -/
def primaryCheck (id : Nat) : Check := ⟨decide (id = 0), .param, 0⟩

/-- ANINIT (R361): it completes right after reset too (log 33). -/
def execAninit (id : Nat) (s : State) : Res :=
  s.checked [idCheck id s.nbanks, primaryCheck id, posCheck s.opReal] fun s =>
    s.allocating true fun s =>
      let t := NotchState.fresh s.cfg s.opReal
      let u := s.setBank id { s.bank id with notch := t }
      .next { u with cr := u.cr.showNotch t }.finishInit

/-- ANRUN (R363). -/
def execAnrun (id : Nat) (s : State) : Res :=
  let t := (s.bank id).notch
  s.checked
    [ idCheck id s.nbanks, s.sizeCheck, s.boundsCheck s.a0 (min (s.opN + s.cfg.anB - 1) s.cfg.maxBlock),
      primaryCheck id, boundCheck t.valid id ]
    fun s =>
      let r := s.runNotch t (s.input .real)
      let out := emitted s.draws .real r.bad r.out
      let t' := r.commit r.bad
      let u := s.setBank id { s.bank id with notch := t' }
      .next ({ u with cr := u.cr.showNotch t' }.finishBuf s.opA out (bit r.trunc))

end Sys2Proof.Machine
end

