-- ==== Sys2Proof/Machine/FilterEngine.lean ====
section
/-! DEFINITION. The Filter Engine (spec/40_filter_engine.md): the helpers of rules R160 to R163, the loops of FAPPLY, FDECIM,
FINTERP and FRESAMP over a sequence, and the six commands. -/

namespace Sys2Proof.Machine

/-! ## Helpers (R160, R161, R163) -/

/-- The input received `q` inputs before the one just written at the cursor (R161). -/
def FilterInst.newest (f : FilterInst) (q : Nat) : Cplx :=
  f.hist.getD ((f.cur + f.taps - q) % f.taps) .zero

/-- The product of a sample with `coef(F, k)`: a complex product with a tuned tap, two real ones with a table value (R160). -/
def FilterInst.tapMul (f : FilterInst) (tb : List Real64) (k : Nat) (x : Cplx) : Cplx :=
  match f.tuned with
  | some t => x.mul (t.getD k .zero)
  | none => x.scale (tb.getD k .zero)

/-- `coef(F, k)` is finite. -/
def FilterInst.tapFinite (f : FilterInst) (tb : List Real64) (k : Nat) : Bool :=
  match f.tuned with
  | some t => (t.getD k .zero).isFinite
  | none => (tb.getD k .zero).isFinite

/-- How many coefficients `k = s, s + d, …` lie below `N`. -/
def FilterInst.tapCount (f : FilterInst) (s d : Nat) : Nat := (f.taps - s + (d - 1)) / d

/-- `dot(F, s, d)` (R161): the sum in increasing `k`, one rounded addition per term. -/
def FilterInst.dot (f : FilterInst) (tb : List Real64) (s d : Nat) : Cplx :=
  (List.range (f.tapCount s d)).foldl (fun acc q => acc.add (f.tapMul tb (s + q * d) (f.newest q))) .zero

/-- `dot(F, s, d)` reads a sample or a coefficient that is not finite. -/
def FilterInst.dotBad (f : FilterInst) (tb : List Real64) (s d : Nat) : Bool :=
  (List.range (f.tapCount s d)).any fun q => !(f.newest q).isFinite || !f.tapFinite tb (s + q * d)

/-- `F.hist[F.cur] <- x`. -/
def FilterInst.put (f : FilterInst) (x : Cplx) : FilterInst := { f with hist := f.hist.set f.cur x }

/-- `advance(F)` (R163). -/
def FilterInst.advance (f : FilterInst) : FilterInst := { f with cur := (f.cur + 1) % f.taps }

/-- `F.phase <- q`. -/
def FilterInst.withPhase (f : FilterInst) (q : Nat) : FilterInst := { f with phase := q }

/-- The instance after `eaten` inputs from the cursor `cur0` on, with the history cells it wrote replaced (log 3). -/
def FilterInst.freed (ser : Nat) (p : Place) (cur0 eaten : Nat) (f : FilterInst) : FilterInst :=
  { f with hist := freeSamples ser p f.variant (circWritten cur0 eaten f.taps) f.hist }

/-- A fresh instance as after FINIT (R162). -/
def FilterInst.fresh (v : Variant) (t n : Nat) : FilterInst :=
  { bound := true, variant := v, tab := t, taps := n, hist := List.replicate n .zero }

/-! ## The loops, over a sequence; `eaten` counts the inputs that entered the history -/

/-- What a filter loop leaves. -/
structure FirLoop where
  f : FilterInst
  out : List Cplx
  bad : Bool
  trunc : Bool
  eaten : Nat

/-- The loop's answer when its sequence is used up. -/
def FirLoop.done (f : FilterInst) : FirLoop := ⟨f, [], false, false, 0⟩

/-- The loop's answer when the next input's outputs would pass `MAXBLOCK`. -/
def FirLoop.cut (f : FilterInst) : FirLoop := ⟨f, [], false, true, 0⟩

/-- One input consumed, with its outputs and whether a dot product read a value that is not finite, before the rest of the
loop. -/
def FirLoop.after (out : List Cplx) (bad : Bool) (r : FirLoop) : FirLoop :=
  ⟨r.f, out ++ r.out, bad || r.bad, r.trunc, r.eaten + 1⟩

/-- The loop of FAPPLY (R168). -/
def firApply (tb : List Real64) : FilterInst → List Cplx → FirLoop
  | f, [] => .done f
  | f, x :: xs =>
    let g := f.put x
    (firApply tb g.advance xs).after [g.dot tb 0 1] (g.dotBad tb 0 1)

/-- The loop of FDECIM (R170). -/
def firDecim (tb : List Real64) (ratio : Nat) : FilterInst → List Cplx → FirLoop
  | f, [] => .done f
  | f, x :: xs =>
    let g := f.put x
    if g.phase + 1 = ratio then
      (firDecim tb ratio (g.withPhase 0).advance xs).after [g.dot tb 0 1] (g.dotBad tb 0 1)
    else
      (firDecim tb ratio (g.withPhase (g.phase + 1)).advance xs).after [] false

/-- The `ratio` outputs of one input of FINTERP: sub-filters in increasing start index, each scaled after its sum (R172). -/
def FilterInst.polyphase (f : FilterInst) (tb : List Real64) (ratio : Nat) : List Cplx :=
  (List.range ratio).map fun s => (f.dot tb s ratio).scale (.ofNat ratio)

/-- The loop of FINTERP (R172); `room` is how many outputs `MAXBLOCK` still admits. -/
def firInterp (tb : List Real64) (ratio : Nat) : Nat → FilterInst → List Cplx → FirLoop
  | _, f, [] => .done f
  | room, f, x :: xs =>
    if room < ratio then .cut f
    else
      let g := f.put x
      (firInterp tb ratio (room - ratio) g.advance xs).after (g.polyphase tb ratio)
        ((List.range ratio).any fun s => g.dotBad tb s ratio)

/-- The number of outputs the next input makes in FRESAMP (R174). -/
def resampCount (phase interp decim : Nat) : Nat :=
  if phase < interp then (interp - phase + (decim - 1)) / decim else 0

/-- The inner loop of FRESAMP (R174): `k` outputs at the phases `phase, phase + decim, …`. -/
def FilterInst.resampOuts (f : FilterInst) (tb : List Real64) (interp decim k : Nat) : List Cplx :=
  (List.range k).map fun j => (f.dot tb (f.phase + j * decim) interp).scale (.ofNat interp)

/-- The loop of FRESAMP (R174). -/
def firResamp (tb : List Real64) (interp decim : Nat) : Nat → FilterInst → List Cplx → FirLoop
  | _, f, [] => .done f
  | room, f, x :: xs =>
    let k := resampCount f.phase interp decim
    if room < k then .cut f
    else
      let g := f.put x
      (firResamp tb interp decim (room - k) (g.withPhase (g.phase + k * decim - interp)).advance xs).after
        (g.resampOuts tb interp decim k)
        ((List.range k).any fun j => g.dotBad tb (g.phase + j * decim) interp)

/-- A filter loop over the inputs `x` as a run of its instance (log 3); every input is read, also one that is not consumed. -/
def firRun (ser : Nat) (p : Place) (f : FilterInst) (x : List Cplx) (r : FirLoop) : Run FilterInst :=
  { st := r.f, freed := r.f.freed ser p f.cur r.eaten, out := r.out, bad := anyNonFinite x || r.bad, trunc := r.trunc }

/-! ## The tuned table (R165) -/

/-- Tap `i` of the tuned table: `2·C[i]·cexp(2π·f·(i − (N−1)/2))`, swapped for the lower sideband. -/
def tunedTap (p : Params) (n : Nat) (f : Real64) (lower : Bool) (i : Nat) (c : Real64) : Cplx :=
  let d := (Real64.ofNat i).sub ((Real64.ofNat (n - 1)).div .two)
  let arg := ((Real64.two.mul .pi).mul f).mul d
  let g := Real64.two.mul c
  let z : Cplx := ⟨g.mul (p.cos arg), g.mul (p.sin arg)⟩
  if lower then z.swap else z

/-- The loop of FTUNE over a prototype. -/
def tune (p : Params) (c : List Real64) (f : Real64) (lower : Bool) : List Cplx :=
  c.mapIdx fun i v => tunedTap p c.length f lower i v

/-! ## The scratch buffer (R175) -/

/-- Interpolating `n` inputs must grow the scratch buffer. -/
def FilterInst.growsFor (f : FilterInst) (n : Nat) : Bool := decide (f.scap < n)

/-- The instance with a scratch buffer that holds `n` inputs. -/
def FilterInst.grown (f : FilterInst) (n : Nat) : FilterInst :=
  if f.scap < n then { f with scap := 2 * n } else f

/-! ## The commands -/

/-- FINIT (R162). -/
def execFinit (v : Bool) (id : Nat) (s : State) : Res :=
  s.checked
    [ idCheck id s.nfilt,
      ⟨decide (s.opA < s.ntab), .param, 0⟩,
      ⟨decide (1 ≤ s.opN ∧ s.opN ≤ s.cfg.maxTaps), .param, 0⟩,
      s.slotCheck s.opA,
      ⟨(s.table s.opA).any fun t => t.val.length = s.opN, .param, 0⟩ ]
    fun s => s.allocating true fun s =>
      .next (s.setFilter id (.fresh (if v then .real else .cplx) s.opA s.opN)).finishInit

/-- FTUNE (R165, R166). The operand's finiteness is checked with the operands (R125, R450; log 14). -/
def execFtune (l : Bool) (id : Nat) (s : State) : Res :=
  let f := s.filter id
  s.checked
    [ idCheck id s.nfilt,
      finiteCheck s.opReal,
      boundCheck f.bound id,
      s.tableCheck f,
      ⟨decide (f.variant = .cplx), .param, 0⟩ ]
    fun s => s.allocating true fun s =>
      let c := s.coefs f
      let t := tune s.cfg c s.opReal l
      let t' := if anyNonFiniteReal c then freeSamples s.draws placeFilter .cplx allWritten t else t
      .next (s.setFilter id { f with tuned := some t' }).finishInit

/-- The checks every filtering command on a buffer shares (R164, R450): the operand checks `ops` come before the bounds. -/
def State.filterChecks (s : State) (id e : Nat) (ops : List Check) : List Check :=
  [idCheck id s.nfilt, s.sizeCheck] ++ ops ++
    [s.boundsCheck s.a0 e, boundCheck (s.filter id).bound id, s.tableCheck (s.filter id)]

/-- The end of a filtering command: the outputs at the base, the instance, `R0`, `STATUS`. -/
def State.finishFilter (s : State) (id : Nat) (r : Run FilterInst) : Res :=
  let out := emitted s.draws r.st.variant r.bad r.out
  .next ((s.setFilter id (r.commit r.bad)).finishBuf s.opA out (bit r.trunc))

/-- FAPPLY (R168). -/
def execFapply (id : Nat) (s : State) : Res :=
  let f := s.filter id
  s.checked (s.filterChecks id (extentSame s.opN) []) fun s =>
    let x := s.input f.variant
    s.finishFilter id (firRun s.draws placeFilter f x (firApply (s.coefs f) f x))

/-- FDECIM (R170, R171). -/
def execFdecim (id : Nat) (s : State) : Res :=
  let f := s.filter id
  s.checked
    (s.filterChecks id (extentSame s.opN) [s.ratioCheck s.op2] ++ [⟨decide (f.phase < s.op2), .param, 0⟩])
    fun s =>
      let x := s.input f.variant
      s.finishFilter id (firRun s.draws placeFilter f x (firDecim (s.coefs f) s.op2 f x))

/-- FINTERP (R172, R175). -/
def execFinterp (id : Nat) (s : State) : Res :=
  let f := s.filter id
  s.checked (s.filterChecks id (s.extentUp s.opN (s.opN * s.op2)) [s.ratioCheck s.op2]) fun s =>
    s.allocating (f.growsFor s.opN) fun s =>
      let g := f.grown s.opN
      let x := s.input f.variant
      s.finishFilter id (firRun s.draws placeFilter g x (firInterp (s.coefs f) s.op2 s.cfg.maxBlock g x))

/-- FRESAMP (R174, R175). -/
def execFresamp (id : Nat) (s : State) : Res :=
  let f := s.filter id
  s.checked
    (s.filterChecks id (s.extentUp s.opN ((s.opN * s.op2 + (s.op3 - 1)) / s.op3 + 1))
      [s.ratioCheck s.op2, s.ratioCheck s.op3])
    fun s =>
      s.allocating (f.growsFor s.opN) fun s =>
        let g := f.grown s.opN
        let x := s.input f.variant
        s.finishFilter id
          (firRun s.draws placeFilter g x (firResamp (s.coefs f) s.op2 s.op3 s.cfg.maxBlock g x))

end Sys2Proof.Machine
end

