-- ==== Sys2Proof/Machine/HalfBand.lean ====
section
/-! DEFINITION. The half-band filter (spec/41_halfband.md): the push of rule R205, the loops of HBDEC2 (R206) and HBINT2 (R208)
over a sequence, and the three commands. `h` is the parameter `HB45`, finite in a well-formed configuration (R202). -/

namespace Sys2Proof.Machine

/-- `win[k]`. -/
def HBInst.at (i : HBInst) (k : Nat) : Cplx := i.win.getD k .zero

/-- `push(H, x)` (R205): the newest input enters the window, the oldest leaves it. -/
def HBInst.push (i : HBInst) (x : Cplx) : HBInst := { i with win := x :: i.win.take 44 }

/-- `H.toggle <- b`. -/
def HBInst.withToggle (i : HBInst) (b : Bool) : HBInst := { i with toggle := b }

/-- `HB45[k]`. -/
def hbTap (h : List Real64) (k : Nat) : Real64 := h.getD k .zero

/-- A sum of `count` symmetric pairs: the pair `win[k] + win[m − k]` first, then the product with `HB45[c k]`, accumulated in
increasing `k` (R206, R208). -/
def HBInst.pairs (i : HBInst) (h : List Real64) (count m : Nat) (c : Nat → Nat) : Cplx :=
  (List.range count).foldl
    (fun acc k => acc.add (((i.at k).add (i.at (m - k))).scale (hbTap h (c k)))) .zero

/-- An output of HBDEC2: 22 pairs, then the centre (R200, R206). -/
def HBInst.decOut (i : HBInst) (h : List Real64) : Cplx :=
  (i.pairs h 22 44 id).add ((i.at 22).scale (hbTap h 22))

/-- The even-phase output of HBINT2: 11 pairs of `win[0..22]`, the centre, times 2 (R208). -/
def HBInst.evenOut (i : HBInst) (h : List Real64) : Cplx :=
  ((i.pairs h 11 22 fun j => 2 * j).add ((i.at 11).scale (hbTap h 22))).scale .two

/-- The odd-phase output of HBINT2: 11 pairs of `win[0..21]`, times 2 (R208). -/
def HBInst.oddOut (i : HBInst) (h : List Real64) : Cplx :=
  (i.pairs h 11 21 fun j => 2 * j + 1).scale .two

/-- Some of the newest `n` samples of the window is not finite. -/
def HBInst.badWithin (i : HBInst) (n : Nat) : Bool := anyNonFinite (i.win.take n)

/-- The instance with every sample of its window replaced when an input was pushed (log 3). -/
def HBInst.freed (ser : Nat) (p : Place) (eaten : Nat) (i : HBInst) : HBInst :=
  if eaten = 0 then i else { i with win := freeSamples ser p i.variant allWritten i.win }

/-- A fresh instance as after HBINIT (R204). -/
def HBInst.fresh (v : Variant) : HBInst :=
  { bound := true, variant := v, win := List.replicate 45 .zero, toggle := false }

/-- What a half-band loop leaves; `eaten` counts the inputs pushed. -/
structure HbLoop where
  i : HBInst
  out : List Cplx
  bad : Bool
  trunc : Bool
  eaten : Nat

/-- One input pushed, with its outputs and whether they read a value that is not finite, before the rest of the loop. -/
def HbLoop.after (out : List Cplx) (bad : Bool) (r : HbLoop) : HbLoop :=
  ⟨r.i, out ++ r.out, bad || r.bad, r.trunc, r.eaten + 1⟩

/-- The loop of HBDEC2 (R206). The window counts as read where an output is made of it; the shift of R205 by itself does not count
(DESIGN CHOICE, log 3). -/
def hbDec2 (h : List Real64) : HBInst → List Cplx → HbLoop
  | i, [] => ⟨i, [], false, false, 0⟩
  | i, x :: xs =>
    let j := i.push x
    if j.toggle then
      (hbDec2 h (j.withToggle false) xs).after [j.decOut h] (j.badWithin 45)
    else
      (hbDec2 h (j.withToggle true) xs).after [] false

/-- The loop of HBINT2 (R208); `room` is how many outputs `MAXBLOCK` still admits. -/
def hbInt2 (h : List Real64) : Nat → HBInst → List Cplx → HbLoop
  | _, i, [] => ⟨i, [], false, false, 0⟩
  | room, i, x :: xs =>
    if room < 2 then ⟨i, [], false, true, 0⟩
    else
      let j := i.push x
      (hbInt2 h (room - 2) j xs).after [j.evenOut h, j.oddOut h] (j.badWithin 23)

/-- A half-band loop over the inputs `x` as a run of its instance (log 3). -/
def hbRun (ser : Nat) (p : Place) (x : List Cplx) (r : HbLoop) : Run HBInst :=
  { st := r.i, freed := r.i.freed ser p r.eaten, out := r.out, bad := anyNonFinite x || r.bad, trunc := r.trunc }

/-! ## The commands -/

/-- HBINIT (R204): it completes right after reset too (log 33). -/
def execHbinit (v : Bool) (id : Nat) (s : State) : Res :=
  s.checked [idCheck id s.nhb] fun s =>
    .next (s.setHalf id (.fresh (if v then .real else .cplx))).finishInit

/-- The checks of HBDEC2 and HBINT2 (R206, R208). -/
def State.halfChecks (s : State) (id e : Nat) : List Check :=
  [idCheck id s.nhb, s.sizeCheck, s.boundsCheck s.a0 e, boundCheck (s.half id).bound id]

/-- The end of a half-band command on a buffer. -/
def State.finishHalf (s : State) (id : Nat) (r : Run HBInst) : Res :=
  let out := emitted s.draws r.st.variant r.bad r.out
  .next ((s.setHalf id (r.commit r.bad)).finishBuf s.opA out (bit r.trunc))

/-- HBDEC2 (R206). -/
def execHbdec2 (id : Nat) (s : State) : Res :=
  let i := s.half id
  s.checked (s.halfChecks id (extentSame s.opN)) fun s =>
    let x := s.input i.variant
    s.finishHalf id (hbRun s.draws placeHalf x (hbDec2 s.cfg.hb45 i x))

/-- HBINT2 (R208). -/
def execHbint2 (id : Nat) (s : State) : Res :=
  let i := s.half id
  s.checked (s.halfChecks id (s.extentUp s.opN (2 * s.opN))) fun s =>
    let x := s.input i.variant
    s.finishHalf id (hbRun s.draws placeHalf x (hbInt2 s.cfg.hb45 s.cfg.maxBlock i x))

end Sys2Proof.Machine
end

