-- ==== Sys2Proof/Machine/Parameters.lean ====
section
/-! DEFINITION. Lookups in the parameters of spec/00_scope.md rule R6: rates, cascades, mode records, stage lists. -/

namespace Sys2Proof

/-- `RATE_SET` (R136): ids 0 to 5 are fixed, the rest are the configuration's. -/
def Params.rateHz (p : Params) (id : Nat) : Option Nat :=
  match id with
  | 0 => some 48000
  | 1 => some 96000
  | 2 => some 192000
  | 3 => some 240000
  | 4 => some 384000
  | 5 => some 480000
  | _ => p.rates.lookup id

/-- `FINAL(w)` of R221. -/
def Params.finalStage (p : Params) (w : Bool) : StageDesc :=
  .fir 2 (if w then p.tabFinalLoose else p.tabFinalSharp)

/-- An entry of a row with `FINAL(w)` resolved. -/
def Params.rowStage (p : Params) (w : Bool) : RowStage → StageDesc
  | .stage d => d
  | .final => p.finalStage w

/-- `CHAIN_TABLE[(id, w)]` (R221): `none` for an unsupported pair. The two rows of R222 are the configuration's to give, as every
other row is (DESIGN CHOICE, log 21). -/
def Params.cascade (p : Params) (id : Nat) (w : Bool) : Option (List StageDesc) :=
  (p.chains.find? fun r => r.rateId = id ∧ r.wide = w).map fun r => r.stages.map (p.rowStage w)

/-- The default stage list of R252: `k` half-bands for `2 ^ k`, no list for any other argument. -/
def defaultStages (n : Nat) : Option (List StageDesc) :=
  if n = 2 ^ n.log2 then some (List.replicate n.log2 .hb) else none

/-- `MODE_TABLE[m].dec(D)` (R252). -/
def ModeRec.decStages (r : ModeRec) (d : Nat) : Option (List StageDesc) :=
  (r.dec.lookup d).getD (defaultStages d)

/-- `MODE_TABLE[m].int(U)` (R252). -/
def ModeRec.intStages (r : ModeRec) (u : Nat) : Option (List StageDesc) :=
  (r.int.lookup u).getD (defaultStages u)

/-- `MODE_TABLE[m]` (R252); a mode id without a record has no semantics. -/
def Params.modeRec (p : Params) (m : Nat) : ModeRec :=
  p.modes.getD m
    { filterRate := 0, kind := .noSemantics, lower := false, dec := [], int := [], agcOnBaseband := false }

/-- The ratio of a stage descriptor (R223): 2 for a half-band. -/
def StageDesc.ratio : StageDesc → Nat
  | .hb => 2
  | .fir r _ => r

/-- The product of the ratios of a stage list (R223, R252). -/
def ratioProduct (ds : List StageDesc) : Nat :=
  ds.foldl (fun acc d => acc * d.ratio) 1

/-- The playback rate `fo = CANON · OUT_FACTOR` in Hz (R270). -/
def Params.outRate (p : Params) : Nat := p.canon * p.outFactor

/-- The decimation factor `D ≥ 1` with `D · fr = inRate` exactly (R254 step 4; log 17). -/
def decFactor (inRate : Real64) (fr : Nat) : Option Nat :=
  match inRate.toNat? with
  | some k => if fr ≠ 0 ∧ k % fr = 0 ∧ 1 ≤ k / fr then some (k / fr) else none
  | none => none

/-- The interpolation factor `U = (CANON · OUT_FACTOR) / fr`, a natural of at least 1 (R254 step 4). -/
def Params.intFactor (p : Params) (fr : Nat) : Option Nat :=
  if fr ≠ 0 ∧ p.outRate % fr = 0 ∧ 1 ≤ p.outRate / fr then some (p.outRate / fr) else none

/-- The decimating stage list DMINIT builds (R254 steps 4, 5). -/
def ModeRec.decList (r : ModeRec) (inRate : Real64) : Option (List StageDesc) :=
  (decFactor inRate r.filterRate).bind r.decStages

/-- The interpolating stage list DMINIT builds (R254 steps 4, 5). -/
def Params.intList (p : Params) (r : ModeRec) : Option (List StageDesc) :=
  (p.intFactor r.filterRate).bind r.intStages

/-- `NB_THRESH[lv]` (R6); level 0 never reads it (R336). -/
def Params.nbThresh (p : Params) (lv : Nat) : Real64 :=
  match lv with
  | 1 => p.nbThresh1
  | 2 => p.nbThresh2
  | _ => p.nbThresh3

/-! ## The constraints on a configuration that the engine does not check (spec/93_implementation_defined.md U22; log 22) -/

/-- The ratio of a stage descriptor is in range: `r ≥ 2` (R221). -/
def StageDesc.ratioOk : StageDesc → Bool
  | .hb => true
  | .fir r _ => decide (2 ≤ r)

/-- A cascade's entry has a ratio in range. -/
def RowStage.ratioOk : RowStage → Bool
  | .stage d => d.ratioOk
  | .final => true

/-- The stage list given for an argument has ratios in range that multiply to the argument (R252). -/
def overrideOk (e : Nat × Option (List StageDesc)) : Bool :=
  match e.2 with
  | some ds => ds.all StageDesc.ratioOk && decide (ratioProduct ds = e.1)
  | none => true

/-- A mode record's stage lists multiply to their arguments (R252). -/
def ModeRec.ok (r : ModeRec) : Bool := r.dec.all overrideOk && r.int.all overrideOk

/-- The filter rate, kind and sideband of the modes 0 to 12 as R252 prints them. No rate stands where the table says none (6, 10), and
none for the three digital-baseband modes (7, 8, 9), whose 48 kHz a configuration may change. -/
def modeTable : List (Option Nat × ModeKind × Bool) :=
  [ (some 6000, .ssbcw, true), (some 6000, .ssbcw, false), (some 12000, .ssbcw, true), (some 12000, .ssbcw, false),
    (some 24000, .am, false), (some 24000, .fm, false), (none, .noSemantics, false),
    (none, .digSum, false), (none, .digSum, true), (none, .digRaw, false), (none, .noSemantics, false),
    (some 8000, .dv, false), (some 8000, .dv, false) ]

/-- A record is the one R252 prints, but for what a configuration may change: the digital-baseband rate, the stage lists and
`agcOnBaseband` (R6; kind and sideband: DEDUCED, log 22). -/
def ModeRec.isRow (r : ModeRec) (row : Option Nat × ModeKind × Bool) : Bool :=
  decide (r.kind = row.2.1 ∧ r.lower = row.2.2) && row.1.all fun hz => r.filterRate = hz

/-- The parameters that R6 calls real numbers are finite. -/
def Params.realsFinite (p : Params) : Bool :=
  [p.amDcPole, p.fmGain, p.fmDeB0, p.fmDeB1, p.fmDeA1, p.digBwThreshold, p.agcLookahead, p.nbTime, p.fadeTime,
    p.sidetoneLevel].all Real64.isFinite

/-- The general constraints of R6; a block's count fits the register that returns it (R22). -/
def Params.sizesOk (p : Params) : Bool :=
  p.clip.isPos && decide (45 ≤ p.maxTaps) && decide (1 ≤ p.maxBlock ∧ p.maxBlock < 2 ^ 64) && decide (1 ≤ p.outFactor) &&
    decide (1 ≤ p.canon) && decide (p.modes.length = 13)

/-- `HB45` has 45 finite entries and is symmetric (R202), the two zeros counting as equal (DESIGN CHOICE, log 22). -/
def Params.hb45Ok (p : Params) : Bool :=
  decide (p.hb45.length = 45) && p.hb45.all Real64.isFinite && (p.hb45.zip p.hb45.reverse).all fun e => e.1.eqv e.2

/-- Each threshold is finite and at least 1 (R334). -/
def Params.nbOk (p : Params) : Bool :=
  [p.nbThresh1, p.nbThresh2, p.nbThresh3].all fun t => t.isFinite && Real64.one.le t

/-- The notch parameters (R362). -/
def Params.notchOk (p : Params) : Bool :=
  decide (1 ≤ p.anB) && decide (p.anKg % 2 = 1 ∧ 3 ≤ p.anKg) && decide (p.anNfft % 2 = 0) &&
    decide (p.anB + p.anKg ≤ p.anNfft + 1) && p.anBeta.isPos && p.anBeta.le .one &&
    decide (p.anHmin ≤ 0 ∧ 0 < p.anHacc ∧ p.anHacc ≤ p.anHmax)

/-- The tables of rates, cascades and modes (R136, R221, R252). The two rows of R222 are not required (DESIGN CHOICE, log 21). -/
def Params.tablesOk (p : Params) : Bool :=
  (p.rates.all fun r => decide (1 ≤ r.2)) && (p.chains.all fun r => r.stages.all RowStage.ratioOk) && p.modes.all ModeRec.ok &&
    (p.modes.zip modeTable).all fun e => e.1.isRow e.2

/-- A well-formed configuration, as far as its parameters go. The values that R6 names for CANON, AM_DC_POLE, AN_TOL and FADE_TIME are
not required (DESIGN CHOICE, log 22). -/
def Params.ok (p : Params) : Bool :=
  p.sizesOk && p.realsFinite && p.hb45Ok && p.nbOk && p.notchOk && p.tablesOk

end Sys2Proof
end

