-- ==== Sys2Proof/Machine/Chain.lean ====
section
/-! DEFINITION. The decimation chain selector (spec/42_chain_selector.md): stages and cascades, the cubic resampler (R231, R232),
and the commands CHSEL, CHRUN and FRAC. The stages also serve the demodulator bank (R254, R256, R270). -/

namespace Sys2Proof.Machine

/-! ## Stages -/

/-- A fresh stage for a descriptor, as CHSEL builds it (R224). -/
def State.freshStage (s : State) (v : Variant) : StageDesc → StageInst
  | .hb => .hb (.fresh v)
  | .fir r t => .fir (.fresh v t (((s.table t).map fun b => b.val.length).getD 0)) r

/-- The ratio of a stage (R223). -/
def StageInst.ratio : StageInst → Nat
  | .hb _ => 2
  | .fir _ r => r

/-- The product of the ratios of a cascade of stages. -/
def stagesRatio (st : List StageInst) : Nat := st.foldl (fun acc x => acc * x.ratio) 1

/-- A descriptor's table slot holds a table (R224, R254). -/
def State.descChecks (s : State) (ds : List StageDesc) : List Check :=
  ds.filterMap fun d =>
    match d with
    | .hb => none
    | .fir _ t => some (s.slotCheck t)

/-- A FIR stage's table resolves with its length (R93, R228). -/
def State.stageChecks (s : State) (st : List StageInst) : List Check :=
  st.filterMap fun x =>
    match x with
    | .hb _ => none
    | .fir f _ => some (s.tableCheck f)

/-- The run of a stage's half-band on data of its sample type (R85). -/
def hbStage (ser : Nat) (p : Place) (x : List Cplx) (v : Variant) (r : HbLoop) : Run StageInst :=
  let q := hbRun ser p x r
  { st := .hb q.st, freed := .hb q.freed, out := outputAs v q.out, bad := q.bad, trunc := q.trunc }

/-- The run of a stage's filter on data of its sample type (R85). -/
def firStage (ser : Nat) (p : Place) (f : FilterInst) (ratio : Nat) (x : List Cplx) (r : FirLoop) : Run StageInst :=
  let q := firRun ser p f x r
  { st := .fir q.st ratio, freed := .fir q.freed ratio, out := outputAs f.variant q.out, bad := q.bad, trunc := q.trunc }

/-- A stage decimating a sequence: `hbdec2` or `fdecim` (R228). -/
def State.decStage (s : State) (p : Place) (st : StageInst) (x : List Cplx) : Run StageInst :=
  match st with
  | .hb i =>
    let y := outputAs i.variant x
    hbStage s.draws p y i.variant (hbDec2 s.cfg.hb45 i y)
  | .fir f ratio =>
    let y := outputAs f.variant x
    firStage s.draws p f ratio y (firDecim (s.coefs f) ratio f y)

/-- A stage interpolating a sequence: `hbint2` or `finterp`, with its scratch buffer grown (R175, R270). -/
def State.intStage (s : State) (p : Place) (st : StageInst) (x : List Cplx) : Run StageInst :=
  match st with
  | .hb i =>
    let y := outputAs i.variant x
    hbStage s.draws p y i.variant (hbInt2 s.cfg.hb45 s.cfg.maxBlock i y)
  | .fir f ratio =>
    let g := f.grown x.length
    let y := outputAs f.variant x
    firStage s.draws p g ratio y (firInterp (s.coefs g) ratio s.cfg.maxBlock g y)

/-- A cascade over a sequence: each stage runs on the outputs of the one before it, and reads them: one that is not finite counts as
read (DESIGN CHOICE, log 3). -/
def runStages (step : Place → StageInst → List Cplx → Run StageInst) (p : Place) :
    List StageInst → List Cplx → Run (List StageInst)
  | [], x => { st := [], freed := [], out := x, bad := false }
  | st :: rest, x =>
    let r := step (rest.length :: p) st x
    let q := runStages step p rest r.out
    { st := r.st :: q.st, freed := r.freed :: q.freed, out := q.out, bad := r.bad || q.bad, trunc := r.trunc || q.trunc }

/-- The decimating cascade (R228). -/
def State.runDec (s : State) (p : Place) (st : List StageInst) (x : List Cplx) : Run (List StageInst) :=
  runStages s.decStage p st x

/-- The interpolating cascade (R270). -/
def State.runInt (s : State) (p : Place) (st : List StageInst) (x : List Cplx) : Run (List StageInst) :=
  runStages s.intStage p st x

/-- Some stage of an interpolating cascade must grow its scratch buffer (R175, R270). -/
def State.stagesGrow (s : State) (p : Place) : List StageInst → List Cplx → Bool
  | [], _ => false
  | st :: rest, x =>
    (match st with
     | .hb _ => false
     | .fir f _ => f.growsFor x.length) ||
    s.stagesGrow p rest (s.intStage p st x).out

/-! ## The cubic resampler (R231, R232) -/

/-- `lagrange3(h, mu)` (R231). -/
def FracState.lagrange3 (f : FracState) : Cplx :=
  let mu := f.mu
  let m1 := mu.sub .one
  let m2 := mu.sub .two
  let p1 := mu.add .one
  let w0 := (((mu.mul m1).mul m2).neg).div .six
  let w1 := ((p1.mul m1).mul m2).div .two
  let w2 := (((p1.mul mu).mul m2).neg).div .two
  let w3 := ((p1.mul mu).mul m1).div .six
  (((f.h0.scale w0).add (f.h1.scale w1)).add (f.h2.scale w2)).add (f.h3.scale w3)

/-- A new input shifts the four samples. The shift by itself does not count as reading them (DESIGN CHOICE, log 3). -/
def FracState.shift (f : FracState) (x : Cplx) : FracState :=
  { f with h0 := f.h1, h1 := f.h2, h2 := f.h3, h3 := x }

/-- `S.mu <- v`. -/
def FracState.withMu (f : FracState) (v : Real64) : FracState := { f with mu := v }

/-- Some of the four samples is not finite. -/
def FracState.bad (f : FracState) : Bool :=
  !f.h0.isFinite || !f.h1.isFinite || !f.h2.isFinite || !f.h3.isFinite

/-- What a loop of FRAC leaves: the state, the outputs, whether an output read a sample that is not finite, whether it stopped
at `MAXBLOCK` outputs. -/
structure FracLoop where
  f : FracState
  out : List Cplx
  bad : Bool
  trunc : Bool

/-- The inner loop of FRAC: outputs while `mu < 1`, at most `room` (R232). The four samples count as read where an output is made
of them (DESIGN CHOICE, log 3). -/
def fracInner (step : Real64) : Nat → FracState → FracLoop
  | 0, f => ⟨f, [], false, f.mu.lt .one⟩
  | room + 1, f =>
    if f.mu.lt .one then
      let r := fracInner step room (f.withMu (f.mu.add step))
      ⟨r.f, f.lagrange3 :: r.out, f.bad || r.bad, r.trunc⟩
    else ⟨f, [], false, false⟩

/-- The loop of FRAC (R232). On truncation the state is left as it stands, the input that was cut in its place and the outputs made of
it kept, as R232 and vector X3 have it (R448 and D15 speak of the last whole input: DEDUCED, log 30). -/
def fracLoop (step : Real64) : Nat → FracState → List Cplx → FracLoop
  | _, f, [] => ⟨f, [], false, false⟩
  | room, f, x :: xs =>
    let r := fracInner step room (f.shift x)
    if r.trunc then r
    else
      let q := fracLoop step (room - r.out.length) (r.f.withMu (r.f.mu.sub .one)) xs
      ⟨q.f, r.out ++ q.out, r.bad || q.bad, q.trunc⟩

/-- The resampler's state with every Real64 it wrote replaced (log 3). -/
def FracState.freed (ser : Nat) (p : Place) (n : Nat) (f : FracState) : FracState :=
  if n = 0 then f
  else
    { h0 := freeCplx ser (0 :: p), h1 := freeCplx ser (1 :: p), h2 := freeCplx ser (2 :: p), h3 := freeCplx ser (3 :: p),
      mu := Config.freeReal ser (4 :: p) }

/-- The resampler over a sequence, at most `room` outputs (R232). -/
def State.runFrac (s : State) (room : Nat) (f : FracState) (step : Real64) (x : List Cplx) : Run FracState :=
  let r := fracLoop step room f x
  { st := r.f, freed := r.f.freed s.draws placeFrac x.length, out := r.out, bad := anyNonFinite x || r.bad, trunc := r.trunc }

/-- A `step` the resampler runs with: finite and greater than 0 (R232). -/
def stepCheck (step : Real64) : Check := ⟨step.isPos, .param, 0⟩

/-! ## The commands -/

/-- The achieved rate (R223); an integer that is no binary64 value is rounded (DESIGN CHOICE, log 35). -/
def achievedRate (rateHz : Nat) (ds : List StageDesc) : Real64 :=
  (Real64.ofNat rateHz).div (.ofNat (ratioProduct ds))

/-- The cascade of a rate id, if the rate set and the chain table both map it (R224). -/
def State.selected (s : State) (w : Bool) : Option (Nat × List StageDesc) :=
  match s.cfg.rateHz s.cr.rateIn.toNat, s.cfg.cascade s.cr.rateIn.toNat w with
  | some hz, some ds => some (hz, ds)
  | _, _ => none

/-- CHSEL (R224, R226). -/
def execChsel (w : Bool) (id : Nat) (s : State) : Res :=
  let sel := s.selected w
  let hz := (sel.map Prod.fst).getD 0
  let ds := (sel.map Prod.snd).getD []
  s.checked
    ([idCheck id s.nbanks, ⟨sel.isSome, .rate, s.cr.rateIn.setWidth 64⟩] ++ s.descChecks ds)
    fun s => s.allocating true fun s =>
      let rate := achievedRate hz ds
      let chain : ChainState :=
        { valid := true, rateId := s.cr.rateIn.toNat, wide := w,
          stages := ds.map (s.freshStage .cplx), achRate := rate }
      .next (((s.setBank id { s.bank id with chain := chain, frac := {} }).setAchRate id rate).finish 0 rate.bits 0)

/-- The checks of a command on a buffer of a bank, up to the bounds (R122, R125, R86). -/
def State.bankBufChecks (s : State) (id e : Nat) : List Check :=
  [idCheck id s.nbanks, s.sizeCheck, s.boundsCheck s.a0 e]

/-- CHRUN (R228). It reads its block also when its cascade has no stage (DESIGN CHOICE, log 3). -/
def execChrun (id : Nat) (s : State) : Res :=
  let c := (s.bank id).chain
  s.checked
    (s.bankBufChecks id (extentSame s.opN) ++ [boundCheck c.valid id] ++ s.stageChecks c.stages)
    fun s =>
      let x := s.input .cplx
      let r := s.runDec placeChain c.stages x
      let bad := anyNonFinite x || r.bad
      let out := emitted s.draws .cplx bad r.out
      .next ((s.setBank id { s.bank id with chain := { c with stages := r.commit bad } }).finishBuf s.opA out 0)

/-- The extent of FRAC (R232). -/
def State.fracExtent (s : State) : Nat := if s.opStep.lt .one then s.cfg.maxBlock else s.opN

/-- FRAC (R232). The operand's finiteness is checked with the operands (R125, R450), its sign after the bounds (log 14). The
output never passes the extent (R86; log 30). It needs no valid chain, so it completes right after reset too (log 33). -/
def execFrac (id : Nat) (s : State) : Res :=
  let step := s.opStep
  let e := s.fracExtent
  s.checked
    [ idCheck id s.nbanks, s.sizeCheck, finiteCheck step, s.boundsCheck s.a0 e, stepCheck step ]
    fun s =>
      let r := s.runFrac e (s.bank id).frac step (s.input .cplx)
      let out := emitted s.draws .cplx r.bad r.out
      .next ((s.setBank id { s.bank id with frac := r.commit r.bad }).finishBuf s.opA out (bit r.trunc))

end Sys2Proof.Machine
end

