-- ==== Sys2Proof/Machine/DemodBank.lean ====
section
/-! DEFINITION. The demodulator/modulator bank (spec/43_demod_bank.md): the filter refresh (R257), the detectors (R258 to R268),
rate restoration (R270), the transmit path (R272 to R274), and the commands DMINIT, DEMOD, RESTORE, MODINIT and MOD. -/

namespace Sys2Proof.Machine

/-! ## Building a demodulator (R254) -/

/-- The sample type of the audio of a mode: complex for `DGT_C` only (R256, R265, R270). -/
def audioOf (k : ModeKind) : Variant := if k = .digRaw then .cplx else .real

/-- A fresh receive filter, tuned (R254, R257). -/
def State.freshRxf (s : State) (t : Nat) (f : Real64) (lower : Bool) : FilterInst :=
  let c := ((s.table t).map Table.val).getD []
  { FilterInst.fresh .cplx t c.length with tuned := some (tune s.cfg c f lower) }

/-- A stage with every Real64 of it replaced (log 3). -/
def StageInst.freedAll (ser : Nat) (p : Place) : StageInst → StageInst
  | .hb i => .hb (i.freed ser p 1)
  | .fir f r => .fir (f.freed ser p f.cur f.taps) r

/-- A cascade with every Real64 of it replaced. -/
def freedStages (ser : Nat) (p : Place) (st : List StageInst) : List StageInst :=
  st.mapIdx fun j x => x.freedAll ser (j :: p)

/-- A tuned table with every tap replaced. -/
def FilterInst.freedTuned (ser : Nat) (p : Place) (f : FilterInst) : FilterInst :=
  { f with tuned := f.tuned.map (freeSamples ser p .cplx allWritten) }

/-- A demodulator with every Real64 of it replaced: what DMINIT writes (log 3). -/
def DemodState.freedAll (ser : Nat) (d : DemodState) : DemodState :=
  let p := placeDemod
  { d with
      inRate := Config.freeReal ser (0 :: p)
      dec := freedStages ser (1 :: p) d.dec
      rxf := (d.rxf.freed ser (2 :: p) d.rxf.cur d.rxf.taps).freedTuned ser (3 :: p)
      rxfFreq := Config.freeReal ser (4 :: p)
      amDc := Config.freeReal ser (5 :: p)
      fmPrev := freeCplx ser (6 :: p)
      fmX1 := Config.freeReal ser (7 :: p)
      fmY1 := Config.freeReal ser (8 :: p)
      int := freedStages ser (9 :: p) d.int }

/-- The demodulator DMINIT builds for mode `m` (R254). -/
def State.freshDemod (s : State) (b m : Nat) (inRate : Real64) : DemodState :=
  let r := s.cfg.modeRec m
  let c := s.bankRegs b
  { valid := true, mode := m, inRate := inRate
    dec := ((r.decList inRate).getD []).map (s.freshStage .cplx)
    rxf := s.freshRxf c.rxfTab.toNat c.rxfFreq r.lower
    rxfTab := c.rxfTab.toNat, rxfFreq := c.rxfFreq, rxfLower := r.lower
    int := ((s.cfg.intList r).getD []).map (s.freshStage (audioOf r.kind))
    dv := if r.kind = .dv then Config.codecOpen m else 0 }

/-- A mode id as `R1` records it (R441). -/
def modeInfo (m : Nat) : Word64 := BitVec.ofNat 64 m

/-- DMINIT (R254, R267, R268). -/
def execDminit (id : Nat) (s : State) : Res :=
  let c := s.bankRegs id
  let m := c.mode.toNat
  let r := s.cfg.modeRec m
  let dec := r.decList s.opReal
  let int := s.cfg.intList r
  let t := c.rxfTab.toNat
  s.checked
    ([ idCheck id s.nbanks,
       ⟨s.opReal.isPos, .param, 0⟩,
       ⟨decide (m ≤ 12), .param, 0⟩,
       ⟨decide (r.kind ≠ .noSemantics), .unsupported, modeInfo m⟩,
       ⟨decide (r.kind ≠ .dv) || s.cfg.codec, .unsupported, modeInfo m⟩,
       ⟨dec.isSome, .param, 0⟩,
       ⟨int.isSome, .param, 0⟩,
       ⟨decide (t < s.ntab), .param, 0⟩,
       s.slotCheck t ] ++
      s.descChecks (dec.getD []) ++ s.descChecks (int.getD []) ++ [finiteCheck c.rxfFreq])
    fun s => s.allocating true fun s =>
      let d := s.freshDemod id m s.opReal
      let bad := anyNonFiniteReal (((s.table t).map Table.val).getD [])
      .next (s.setBank id { s.bank id with demod := if bad then d.freedAll s.draws else d }).finishInit

/-! ## The filter refresh (R257) -/

/-- The receive filter's registers differ, as bit patterns, from the values it was last tuned with. -/
def DemodState.stale (d : DemodState) (c : BankRegs) : Bool :=
  decide (c.rxfTab.toNat ≠ d.rxfTab ∨ c.rxfFreq ≠ d.rxfFreq)

/-- The length of the table `RXF_TAB[b]` names. -/
def State.rxfLen (s : State) (c : BankRegs) : Nat :=
  ((s.table c.rxfTab.toNat).map fun t => t.val.length).getD 0

/-- The refresh must bind a new filter: the new table has another length. -/
def State.rebinds (s : State) (d : DemodState) (c : BankRegs) : Bool :=
  d.stale c && decide (s.rxfLen c ≠ d.rxf.taps)

/-- What the refresh requires (R257). -/
def State.refreshChecks (s : State) (d : DemodState) (c : BankRegs) : List Check :=
  if d.stale c then
    [ ⟨decide (c.rxfTab.toNat < s.ntab), .param, 0⟩, finiteCheck c.rxfFreq, s.slotCheck c.rxfTab.toNat ]
  else
    [ ⟨(s.table d.rxfTab).any fun t => t.val.length = d.rxf.taps, .table, BitVec.ofNat 64 d.rxfTab⟩ ]

/-- The demodulator after the refresh (R257). -/
def State.refreshed (s : State) (d : DemodState) (c : BankRegs) : DemodState :=
  if d.stale c then
    let t := c.rxfTab.toNat
    let fresh := s.freshRxf t c.rxfFreq d.rxfLower
    { d with
        rxf := if s.rebinds d c then fresh else { d.rxf with tab := t, tuned := fresh.tuned }
        rxfTab := t, rxfFreq := c.rxfFreq }
  else d

/-- The refresh reads a coefficient that is not finite. -/
def State.refreshBad (s : State) (d : DemodState) (c : BankRegs) : Bool :=
  d.stale c && anyNonFiniteReal (((s.table c.rxfTab.toNat).map Table.val).getD [])

/-! ## Detectors (R258 to R265) -/

/-- `Re(z) + Im(z)` or `Re(z) − Im(z)`. -/
def sumOrDiff (plus : Bool) (z : Cplx) : Real64 := if plus then z.re.add z.im else z.re.sub z.im

/-- The AM detector (R260). -/
def detectAM (p : Params) (d : DemodState) (z : Cplx) : DemodState × Cplx :=
  let t := (p.mag z).add (p.amDcPole.mul d.amDc)
  ({ d with amDc := t }, .ofReal (t.sub d.amDc))

/-- The FM detector's phase, 0 on a zero product (R261). -/
def fmPhase (p : Params) (rate : Nat) (d : Cplx) : Real64 :=
  if d.re.eqv .zero && d.im.eqv .zero then .zero
  else ((p.atan2 d.im d.re).mul (.ofNat rate)).mul p.fmGain

/-- The FM detector and its de-emphasis (R261). -/
def detectFM (p : Params) (rate : Nat) (d : DemodState) (z : Cplx) : DemodState × Cplx :=
  let v := fmPhase p rate (z.mul d.fmPrev.conj)
  let y := ((p.fmDeB0.mul v).add (p.fmDeB1.mul d.fmX1)).sub (p.fmDeA1.mul d.fmY1)
  ({ d with fmPrev := z, fmX1 := v, fmY1 := y }, .ofReal y)

/-- `detect(S, z)` of the mode's kind. The codec's kind and the kind without semantics have none and pass `z` on. -/
def detect (p : Params) (r : ModeRec) (d : DemodState) (z : Cplx) : DemodState × Cplx :=
  match r.kind with
  | .ssbcw => (d, .ofReal (sumOrDiff (decide ((!d.rxfLower) = p.sbPlusIsUpper)) z))
  | .am => detectAM p d z
  | .fm => detectFM p r.filterRate d z
  | .digSum => (d, .ofReal (sumOrDiff (!r.lower) z))
  | .digRaw => (d, z)
  | .dv => (d, z)
  | .noSemantics => (d, z)

/-- The detector reads a sample that is not finite: FM's previous one (R261), not the one it gets in this pass (DESIGN CHOICE, log 3). -/
def detectBad (r : ModeRec) (d : DemodState) : Bool :=
  decide (r.kind = .fm) && !d.fmPrev.isFinite

/-- The modes whose receive filter depends on `RXF_BW[b]` (R256, R264): the only ones that read it. -/
def readsBandwidth (k : ModeKind) : Bool := decide (k = .digSum ∨ k = .digRaw)

/-- DEMOD reads an `RXF_BW[b]` that is infinite (R11, U3). One that is NaN is no such value: it compares false
(spec/93_implementation_defined.md U17). -/
def bandwidthBad (k : ModeKind) (bw : Real64) : Bool := readsBandwidth k && bw.isInf

/-- DEMOD reads an `RXF_FREQ[b]` that is not finite (R11, U3, U17). The refresh rejects one that differs from the latched value (R257);
one that equals it, as a bit pattern, is read and not checked. -/
def frequencyBad (f : Real64) : Bool := !f.isFinite

/-- Whether the receive filter runs (R256, R264). An `RXF_BW[b]` that is NaN compares false, so the filter is not used
(spec/93_implementation_defined.md U17). -/
def useFilter (p : Params) (k : ModeKind) (bw : Real64) : Bool :=
  match k with
  | .ssbcw => true
  | .am => true
  | .fm => true
  | .digSum => bw.lt p.digBwThreshold
  | .digRaw => bw.lt p.digBwThreshold
  | .dv => false
  | .noSemantics => false

/-- What the sample loop of DEMOD leaves. -/
structure DemodLoop where
  d : DemodState
  out : List Cplx
  bad : Bool

/-- The sample loop of DEMOD (R256). A receive-filter output that overflow made NaN or infinite does not count as read by the detector
that takes it in the same pass: detection goes on by IEEE arithmetic and frees nothing (R11; DESIGN CHOICE, log 3). -/
def demodLoop (p : Params) (r : ModeRec) (tb : List Real64) (useF : Bool) : DemodState → List Cplx → DemodLoop
  | d, [] => ⟨d, [], false⟩
  | d, x :: xs =>
    let g := d.rxf.put x
    let z := if useF then g.dot tb 0 1 else x
    let d1 := if useF then { d with rxf := g.advance } else d
    let y := detect p r d1 z
    let q := demodLoop p r tb useF y.1 xs
    ⟨q.d, y.2 :: q.out, (useF && g.dotBad tb 0 1) || detectBad r d || q.bad⟩

/-- The demodulator `d` after a run with every Real64 the run wrote replaced (log 3): `dec` as its stages leave it, the tuned table
and the latched frequency after a refresh, the receive filter's history where it was written, the detector's memory. -/
def DemodState.freed (ser : Nat) (k : ModeKind) (dec : List StageInst) (refreshed rebound : Bool) (cur0 eaten count : Nat)
    (d : DemodState) : DemodState :=
  let p := placeDemod
  let f := d.rxf.freed ser (2 :: p) cur0 (if rebound then d.rxf.taps else eaten)
  let am := decide (k = .am ∧ count ≠ 0)
  let fm := decide (k = .fm ∧ count ≠ 0)
  { d with
      dec := dec
      rxf := if refreshed then f.freedTuned ser (3 :: p) else f
      rxfFreq := if refreshed then Config.freeReal ser (4 :: p) else d.rxfFreq
      amDc := if am then Config.freeReal ser (5 :: p) else d.amDc
      fmPrev := if fm then freeCplx ser (6 :: p) else d.fmPrev
      fmX1 := if fm then Config.freeReal ser (7 :: p) else d.fmX1
      fmY1 := if fm then Config.freeReal ser (8 :: p) else d.fmY1 }

/-- DEMOD over a sequence (R256, R268): refresh, decimate, filter, detect; digital voice hands its samples to the codec, whose
answer is cut at `cap` samples (log 18). A value that is not finite and that a decimating stage made counts as read by the filter,
the detector or the codec it is handed to (DESIGN CHOICE, log 3). -/
def State.runDemod (s : State) (c : BankRegs) (d : DemodState) (cap : Nat) (x : List Cplx) : Run DemodState :=
  let r := s.cfg.modeRec d.mode
  let d1 := s.refreshed d c
  let dec := s.runDec (10 :: placeDemod) d1.dec x
  let useF := useFilter s.cfg r.kind c.rxfBw
  let q := demodLoop s.cfg r (s.coefs d1.rxf) useF { d1 with dec := dec.st } dec.out
  let voice := Config.codecDecode s.draws d1.dv dec.out
  let d2 := if r.kind = .dv then { q.d with dv := voice.1 } else q.d
  { st := d2
    freed := d2.freed s.draws r.kind dec.freed (d.stale c) (s.rebinds d c) d1.rxf.cur
      (if useF then dec.out.length else 0) dec.out.length
    out := if r.kind = .dv then (voice.2.take cap).map Cplx.ofReal else q.out
    bad := anyNonFinite x || dec.bad || anyNonFinite dec.out || q.bad || s.refreshBad d c ||
      bandwidthBad r.kind c.rxfBw || frequencyBad c.rxfFreq }

/-- What DEMOD requires once its bank is bound (R256): a mode with semantics, the refresh, the tables of its stages. -/
def State.demodChecks (s : State) (d : DemodState) (c : BankRegs) : List Check :=
  [⟨decide ((s.cfg.modeRec d.mode).kind ≠ .noSemantics), .unsupported, modeInfo d.mode⟩] ++
    s.refreshChecks d c ++ s.stageChecks d.dec

/-- DEMOD (R256, R257, R268). The oracle is consulted when the refresh rebuilds anything (R446; log 15). -/
def execDemod (id : Nat) (s : State) : Res :=
  let d := (s.bank id).demod
  let c := s.bankRegs id
  s.checked
    (s.bankBufChecks id (extentSame s.opN) ++ [boundCheck d.valid id] ++ s.demodChecks d c)
    fun s => s.allocating (d.stale c) fun s =>
      let r := s.runDemod c d (min s.cfg.maxBlock s.opN) (s.input .cplx)
      let out := emitted s.draws (audioOf (s.cfg.modeRec d.mode).kind) r.bad r.out
      .next ((s.setBank id { s.bank id with demod := r.commit r.bad }).finishBuf s.opA out 0)

/-! ## Rate restoration (R270) -/

/-- RESTORE over a sequence (R270): it reads its block also when it has no stage (DESIGN CHOICE, log 3). -/
def State.runRestore (s : State) (d : DemodState) (x : List Cplx) : Run DemodState :=
  let r := s.runInt placeRestore d.int x
  { st := { d with int := r.st }, freed := { d with int := r.freed }, out := r.out, bad := anyNonFinite x || r.bad,
    trunc := r.trunc }

/-- RESTORE (R270, R175). -/
def execRestore (id : Nat) (s : State) : Res :=
  let d := (s.bank id).demod
  let v := (audioOf (s.cfg.modeRec d.mode).kind)
  s.checked
    (s.bankBufChecks id (s.extentUp s.opN (s.opN * stagesRatio d.int)) ++ [boundCheck d.valid id] ++ s.stageChecks d.int)
    fun s => s.allocating (s.stagesGrow placeRestore d.int (s.input v)) fun s =>
      let r := s.runRestore d (s.input v)
      let out := emitted s.draws v r.bad r.out
      .next ((s.setBank id { s.bank id with demod := r.commit r.bad }).finishBuf s.opA out (bit r.trunc))

/-! ## Transmit (R272 to R274; log 19) -/

/-- MODINIT (R273). With a `TxBundle` it completes right after reset too (log 33). -/
def execModinit (id : Nat) (s : State) : Res :=
  let m := (s.bankRegs id).mode.toNat
  s.checked
    [ idCheck id s.nbanks,
      ⟨decide (m ≤ 12), .param, 0⟩,
      ⟨s.cfg.txBundle, .unsupported, modeInfo m⟩ ]
    fun s =>
      .next (s.setBank id { s.bank id with tx := { valid := true, mode := m, adapter := Config.txInit m } }).finishInit

/-- The adapter's state after one block, and the complex baseband before interpolation: the first three stages in the source's
order (R274). No part is given `CTCSS_FREQ` (DESIGN CHOICE, log 19). -/
def txBaseband (c : CtrlRegs) (st : Nat) (x : List Real64) : Nat × List Cplx :=
  let a := Config.txPreemphasis st x c.micPreemph c.micVox
  let b := Config.txLevelSoftclip a.1 a.2 c.micClip
  Config.txBandpassModulate b.1 b.2

/-- The first `count` samples of the interpolated stream (R274). -/
def txStream (z : Nat × List Cplx) (count : Nat) : List Cplx :=
  (List.range count).map (Config.txInterpolate z.1 z.2)

/-- MOD (R274): the output count depends on the carried state and `n` only. -/
def execMod (id : Nat) (s : State) : Res :=
  let tx := (s.bank id).tx
  s.checked (s.bankBufChecks id s.cfg.maxBlock ++ [boundCheck tx.valid id]) fun s =>
    let x := s.input .real
    let z := txBaseband s.cr tx.adapter (x.map Cplx.re)
    let m := Config.txCount tx.adapter s.opN
    let bad := anyNonFinite x || anyNonFiniteReal [s.cr.micPreemph, s.cr.micClip, s.cr.micVox]
    let out := emitted s.draws .cplx bad (txStream z (min m s.cfg.maxBlock))
    .next ((s.setBank id { s.bank id with tx := { tx with adapter := Config.txInterpolateState z.1 z.2 } }).finishBuf
      s.opA out (bit (decide (s.cfg.maxBlock < m))))

end Sys2Proof.Machine
end

