-- ==== Sys2Proof/Machine/NoiseBlanker.lean ====
section
/-! DEFINITION. The noise blanker (spec/45_noise_blanker.md): the per-sample state machine of rule R333 with its hold-off (R334)
and retroactive fade (R335), and the commands NBINIT (R331) and NBRUN (R333, R336). -/

namespace Sys2Proof.Machine

/-! ## One sample (R333) -/

/-- The running sum and magnitudes with the new magnitude in the place of the oldest. -/
def NBState.measured (b : NBState) (mag : Real64) : NBState :=
  { b with
      sum := (b.sum.sub (b.bufM.getD b.idx .zero)).add mag
      bufM := b.bufM.set b.idx mag }

/-- Whether the sample just measured is pulsed; false until `W` samples have been seen (R334). -/
def NBState.pulsed (b : NBState) (thr mag : Real64) : Bool :=
  decide (b.w ≤ b.seen) && ((b.sum.div (.ofNat b.w)).mul thr).lt mag

/-- The number of samples seen, saturating at `W`. -/
def NBState.counted (b : NBState) : NBState := { b with seen := if b.seen < b.w then b.seen + 1 else b.seen }

/-- The cell `d` places before the cursor. -/
def NBState.back (b : NBState) (d : Nat) : Nat := (b.idx + b.w - d) % b.w

/-- The retroactive fade over the preceding half-window (R335): the sample `d` places back is weighted `(d − 1) / H`. -/
def NBState.faded (b : NBState) : NBState :=
  (List.range b.h).foldl
    (fun acc i =>
      let j := b.back (i + 1)
      { acc with bufS := acc.bufS.set j ((acc.bufS.getD j .zero).scale ((Real64.ofNat i).div (.ofNat b.h))) })
    b

/-- A sample stored at the cursor. -/
def NBState.put (b : NBState) (z : Cplx) : NBState := { b with bufS := b.bufS.set b.idx z }

/-- `raise_step(B, v)` (R333). -/
def NBState.raiseStep (b : NBState) (v : Cplx) : NBState :=
  let c := b.put (v.scale ((Real64.ofNat b.ramp).div (.ofNat b.h)))
  { c with ramp := b.ramp + 1, st := if b.ramp + 1 = b.h then .normal else b.st }

/-- The state machine on the sample `v` (R333). -/
def NBState.machine (b : NBState) (pulsed : Bool) (v : Cplx) : NBState :=
  match b.st with
  | .normal => if pulsed then { b.faded.put .zero with st := .pulseActive } else b.put v
  | .pulseActive => if pulsed then b.put .zero else { b with ramp := 0, st := .windowRaising }.raiseStep v
  | .windowRaising => if pulsed then { b.put .zero with st := .pulseActive } else b.raiseStep v

/-- The retroactive fade runs on this sample. -/
def NBState.fades (b : NBState) (pulsed : Bool) : Bool := decide (b.st = .normal) && pulsed

/-- The cells of `bufS` one sample writes: the cursor's, and the half-window before it when the fade runs. -/
def NBState.writes (b : NBState) (fades : Bool) (i : Nat) : Bool :=
  decide (i = b.idx) || (fades && (List.range b.h).any fun d => decide (i = b.back (d + 1)))

/-- What the loop of NBRUN leaves; `wrote` says which cells of `bufS` it wrote. -/
structure NbLoop where
  b : NBState
  out : List Cplx
  bad : Bool
  wrote : List Bool

/-- The loop of NBRUN (R333). -/
def nbLoop (p : Params) (thr : Real64) : List Bool → NBState → List Cplx → NbLoop
  | wrote, b, [] => ⟨b, [], false, wrote⟩
  | wrote, b, x :: xs =>
    let mag := p.mag x
    let b1 := b.measured mag
    let pulsed := b1.pulsed thr mag
    let b2 := b1.counted
    let b3 := b2.machine pulsed x
    let fades := b2.fades pulsed
    let q := nbLoop p thr (wrote.mapIdx fun i w => w || b2.writes fades i) { b3 with idx := (b.idx + 1) % b.w } xs
    let y := b.bufS.getD b.idx .zero
    let faded := (List.range b.h).map fun d => b.bufS.getD (b.back (d + 1)) .zero
    ⟨q.b, y :: q.out, !y.isFinite || (fades && anyNonFinite faded) || q.bad, q.wrote⟩

/-- The blanker with every Real64 the loop wrote replaced (log 3). -/
def NBState.freed (ser idx0 n : Nat) (wrote : List Bool) (b : NBState) : NBState :=
  let p := placeNb
  { b with
      bufS := freeSamples ser (0 :: p) .cplx (fun i => wrote.getD i false) b.bufS
      bufM := freeReals ser (1 :: p) (circWritten idx0 n b.w) b.bufM
      sum := if n = 0 then b.sum else Config.freeReal ser (2 :: p) }

/-- NBRUN over a sequence at a level other than 0 (R333). -/
def State.runNb (s : State) (b : NBState) (x : List Cplx) : Run NBState :=
  let r := nbLoop s.cfg (s.cfg.nbThresh s.cr.nbLevel.toNat) (b.bufS.map fun _ => false) b x
  { st := r.b, freed := r.b.freed s.draws b.idx x.length r.wrote, out := r.out, bad := anyNonFinite x || r.bad }

/-! ## The commands -/

/-- The length of the delay line, `floor(NB_TIME · rateHz + 0.5)` (R331). -/
def Params.nbLen (p : Params) (rateHz : Nat) : Option Int := (p.nbTime.mul (.ofNat rateHz)).roundHalfUp?

/-- A cleared blanker of length `w` (R331). -/
def NBState.fresh (w : Nat) : NBState :=
  { valid := true, w := w, h := w / 2, bufS := List.replicate w .zero, bufM := List.replicate w .zero }

/-- NBINIT (R331). -/
def execNbinit (id : Nat) (s : State) : Res :=
  let rate := s.cfg.rateHz s.cr.rateIn.toNat
  let len := Params.nbLen s.cfg (rate.getD 0)
  s.checked
    [ idCheck id s.nbanks,
      ⟨rate.isSome, .rate, s.cr.rateIn.setWidth 64⟩,
      ⟨len.any fun l => 2 ≤ l ∧ l ≤ (s.cfg.maxBlock : Int), .param, 0⟩ ]
    fun s => s.allocating true fun s =>
      .next (s.setBank id { s.bank id with nb := .fresh (len.getD 0).toNat }).finishInit

/-- NBRUN (R333); at level 0 it reads and writes nothing and requires nothing (R336), so it completes right after reset too (log 33). -/
def execNbrun (id : Nat) (s : State) : Res :=
  let b := (s.bank id).nb
  let off := decide (s.cr.nbLevel = 0)
  s.checked
    [ idCheck id s.nbanks, s.sizeCheck, s.boundsCheck s.a0 (extentSame s.opN), boundCheck (off || b.valid) id ]
    fun s =>
      if off then .next (s.finish s.a1 0 0)
      else
        let r := s.runNb b (s.input .cplx)
        let out := emitted s.draws .cplx r.bad r.out
        .next ((s.setBank id { s.bank id with nb := r.commit r.bad }).finishBuf s.opA out 0)

end Sys2Proof.Machine
end

