-- ==== Sys2Proof/Machine/Orchestrator.lean ====
section
/-! DEFINITION. The pipeline orchestrator (spec/47_orchestrator.md): the tuning shift (R403), the key-down machine (R412), the
sidetone (R413), stereo packing (R414), the composite command PIPERX (R401), and NOP (R420) and BKFREE (R421). -/

namespace Sys2Proof.Machine

/-! ## The tuning shift (R403) -/

/-- `2π`. -/
def twoPi : Real64 := Real64.two.mul .pi

/-- The mixer phase after one sample, wrapped. -/
def mixNext (mix inc : Real64) : Real64 :=
  let a := mix.add inc
  let b := if Real64.pi.le a then a.sub twoPi else a
  if b.lt Real64.pi.neg then b.add twoPi else b

/-- The oscillator `(cos mix, −sin mix)`. -/
def oscillator (p : Params) (mix : Real64) : Cplx := (p.cexp mix).conj

/-- `tune_shift` over a sequence: the phase after it and the shifted samples. -/
def tuneShift (p : Params) (inc : Real64) : Real64 → List Cplx → Real64 × List Cplx
  | mix, [] => (mix, [])
  | mix, x :: xs =>
    let r := tuneShift p inc (mixNext mix inc) xs
    (r.1, x.mul (oscillator p mix) :: r.2)

/-- The phase increment `((2·PI)·tf) / Real64(rateHz)`. -/
def tuneInc (tf : Real64) (rateHz : Nat) : Real64 := (twoPi.mul tf).div (.ofNat rateHz)

/-! ## Mute and sidetone (R412, R413) -/

/-- The fade length `F = max(1, floor(FADE_TIME · fo + 0.5))` in frames (R412). The floor of a value that is not finite is a free
integer (log 23). -/
def Params.fadeLen (p : Params) (ser : Nat) : Nat :=
  max 1 (((p.fadeTime.mul (.ofNat p.outRate)).roundHalfUp?.getD (Config.freeInt ser (1 :: placeKey))).toNat)

/-- The hold delay `HD` in frames (R412): 0 when the register is not finite or negative. The floor of a value that is not finite is
a free integer (log 23). -/
def Params.holdLen (p : Params) (ser : Nat) (hold : Real64) : Nat :=
  if !hold.isFinite || hold.lt .zero then 0
  else ((hold.mul (.ofNat p.outRate)).roundHalfUp?.getD (Config.freeInt ser (0 :: placeKey))).toNat

/-- One frame of the fade-in (R412). -/
def KeyState.fadeStep (fade : Nat) (k : KeyState) : KeyState × Real64 :=
  let g := (Real64.ofNat k.n).div (.ofNat fade)
  if k.n + 1 = fade then ({ k with st := .rx, n := 0 }, g) else ({ k with st := .fadeIn, n := k.n + 1 }, g)

/-- One frame of the hold: silence until `HD` frames have passed, then the fade-in (R412). -/
def KeyState.holdStep (fade hold : Nat) (k : KeyState) : KeyState × Real64 :=
  if k.n < hold then ({ k with st := .hold, n := k.n + 1 }, .zero)
  else ({ k with st := .fadeIn, n := 0 }).fadeStep fade

/-- `key_gain(Ks, down)` (R412). -/
def KeyState.gain (fade hold : Nat) (down : Bool) (k : KeyState) : KeyState × Real64 :=
  if down then ({ k with st := .keyed, n := 0 }, .zero)
  else
    match k.st with
    | .rx => (k, .one)
    | .keyed => ({ k with st := .hold, n := 0 }).holdStep fade hold
    | .hold => k.holdStep fade hold
    | .fadeIn => k.fadeStep fade

/-- The envelope position of one frame (R413). -/
def KeyState.envelope (fade : Nat) (down : Bool) (k : KeyState) : KeyState :=
  if down then (if k.lvl < fade then { k with lvl := k.lvl + 1 } else k)
  else { k with lvl := k.lvl - 1 }

/-- The sidetone phase after one frame (R413). -/
def toneNext (p : Params) (freq tone : Real64) : Real64 :=
  let t := tone.add ((twoPi.mul freq).div (.ofNat p.outRate))
  if twoPi.le t then t.sub twoPi else t

/-- `tone_sample(Ks, down, toneSel)` (R413). -/
def KeyState.toneSample (p : Params) (fade : Nat) (freq : Real64) (down toneSel : Bool) (k : KeyState) : KeyState × Real64 :=
  let k1 := k.envelope fade down
  if k1.lvl = 0 then ({ k1 with tone := .zero }, .zero)
  else
    let s := (p.sidetoneLevel.mul ((Real64.ofNat k1.lvl).div (.ofNat fade))).mul (p.sin k1.tone)
    ({ k1 with tone := toneNext p freq k1.tone }, if toneSel then s else .zero)

/-- A stereo frame (R414): the complex stream of `DGT_C` as it is, real audio on both channels. -/
def stereo (k : ModeKind) (z : Cplx) : Cplx := if k = .digRaw then z else ⟨z.re, z.re⟩

/-- What stage 9 reads of the configuration: the fade and hold lengths, the sidetone frequency and the key. -/
structure KeyCfg where
  fade : Nat
  hold : Nat
  freq : Real64
  down : Bool
  toneSel : Bool

/-- Stage 9 on one frame (R401): gain on the received audio, plus the sidetone. -/
def keyFrame (p : Params) (c : KeyCfg) (kind : ModeKind) (k : KeyState) (z : Cplx) : KeyState × Cplx :=
  let g := k.gain c.fade c.hold c.down
  let t := g.1.toneSample p c.fade c.freq c.down c.toneSel
  let fr := stereo kind z
  (t.1, ⟨(fr.re.mul g.2).add t.2, (fr.im.mul g.2).add t.2⟩)

/-- What the loop of stage 9 leaves; `bad` when it read a sidetone frequency that is not finite. -/
structure KeyLoop where
  k : KeyState
  out : List Cplx
  bad : Bool

/-- Stage 9 over the frames (R401). -/
def keyLoop (p : Params) (c : KeyCfg) (kind : ModeKind) : KeyState → List Cplx → KeyLoop
  | k, [] => ⟨k, [], false⟩
  | k, z :: zs =>
    let r := keyFrame p c kind k z
    let q := keyLoop p c kind r.1 zs
    ⟨q.k, r.2 :: q.out, (decide ((k.envelope c.fade c.down).lvl ≠ 0) && !c.freq.isFinite) || q.bad⟩

/-! ## The pipeline (R401): a working copy of the bank and of the control registers -/

/-- The working copy: the sequence between two stages, the bank and control registers as the rules compute them and with every
Real64 written so far replaced (log 3), whether a value that is not finite was read, and how many stages were truncated. -/
structure Pipe where
  x : List Cplx
  bank : Bank
  bankFreed : Bank
  cr : CtrlRegs
  crFreed : CtrlRegs
  bad : Bool
  truncs : Nat

/-- The working copy at the start of the command. -/
def State.pipeStart (s : State) (b : Nat) : Pipe :=
  let k := s.bank b
  { x := s.sm.readBlock s.opA s.opN, bank := k, bankFreed := k, cr := s.cr, crFreed := s.cr, bad := false, truncs := 0 }

/-- A stage's run put into the working copy by `set`. -/
def Pipe.ran {σ : Type} (p : Pipe) (r : Run σ) (set : σ → Bank → Bank) : Pipe :=
  { p with
      x := r.out, bank := set r.st p.bank, bankFreed := set r.freed p.bankFreed
      bad := p.bad || r.bad, truncs := p.truncs + bit r.trunc }

/-- Stage 1: tune (R403). -/
def State.pipeTune (s : State) (b rateHz : Nat) (p : Pipe) : Pipe :=
  let r := tuneShift s.cfg (tuneInc (s.bankRegs b).tune rateHz) p.bank.mix p.x
  { p with
      x := r.2
      bank := { p.bank with mix := r.1 }
      bankFreed := { p.bankFreed with mix := if p.x.isEmpty then p.bank.mix else Config.freeReal s.draws placeMix }
      bad := p.bad || anyNonFinite p.x }

/-- Stage 2: noise-blank, at a level other than 0 (R333, R336). -/
def State.pipeBlank (s : State) (p : Pipe) : Pipe :=
  if s.cr.nbLevel = 0 then p
  else p.ran (s.runNb p.bank.nb p.x) fun n k => { k with nb := n }

/-- Stage 3: decimate (R228). -/
def State.pipeChain (s : State) (p : Pipe) : Pipe :=
  p.ran (s.runDec placeChain p.bank.chain.stages p.x) fun st k => { k with chain := { k.chain with stages := st } }

/-- Whether the fractional correction runs (R405). -/
def Bank.fractional (k : Bank) : Bool := !k.chain.achRate.eqv k.demod.inRate

/-- The step of the fractional correction (R405). -/
def Bank.fracStep (k : Bank) : Real64 := k.chain.achRate.div k.demod.inRate

/-- The fractional correction (R405). -/
def State.pipeFrac (s : State) (p : Pipe) : Pipe :=
  if p.bank.fractional then p.ran (s.runFrac s.cfg.maxBlock p.bank.frac p.bank.fracStep p.x) fun f k => { k with frac := f }
  else p

/-- The S-meter of the primary channel (R411). -/
def State.pipeSmeter (s : State) (b : Nat) (p : Pipe) : Pipe :=
  if b = 0 then
    { p with
        cr := { p.cr with smeter := s.cfg.measureSmeter p.x }
        crFreed := { p.crFreed with smeter := Config.freeReal s.draws (0 :: placeTelemetry) }
        bad := p.bad || anyNonFinite p.x }
  else p

/-- The AGC, with its telemetry (R303, R306). `AGC_GAIN` is written also when no sample reached the AGC, whose gain then keeps its
value: after a read of a value that is not finite the register is free by itself (R11, U3; log 3). -/
def State.pipeAgc (s : State) (b : Nat) (cx : Bool) (p : Pipe) : Pipe :=
  let r := s.runAgc p.bank.agc cx p.x
  let q := p.ran r.toRun fun g k => { k with agc := g }
  { q with
      cr := p.cr.afterAgc b r.clamped r.st.gain
      crFreed := p.crFreed.afterAgc b r.clamped
        (if p.x.isEmpty then Config.freeReal s.draws (2 :: placeTelemetry) else r.freed.gain) }

/-- Stage 4: demodulate (R256). -/
def State.pipeDemod (s : State) (b : Nat) (p : Pipe) : Pipe :=
  p.ran (s.runDemod (s.bankRegs b) p.bank.demod s.cfg.maxBlock p.x) fun d k => { k with demod := d }

/-- Whether the notch stage runs (R407). -/
def State.notchRuns (s : State) (b : Nat) (kind : ModeKind) : Bool :=
  decide (b = 0) && s.cr.notchEn && decide (kind ≠ .digRaw)

/-- Stage 5: notch (R363, R407). -/
def State.pipeNotch (s : State) (b : Nat) (kind : ModeKind) (p : Pipe) : Pipe :=
  if s.notchRuns b kind then
    let r := s.runNotch p.bank.notch p.x
    let q := p.ran r fun t k => { k with notch := t }
    { q with cr := p.cr.showNotch r.st, crFreed := p.crFreed.showNotch r.st }
  else p

/-- Stage 6: restore the rate (R270). RESTORE changes only the interpolating stages of the demodulator. -/
def State.pipeRestore (s : State) (p : Pipe) : Pipe :=
  p.ran (s.runInt placeRestore p.bank.demod.int p.x) fun st k => { k with demod := { k.demod with int := st } }

/-- Stage 7: squelch on the primary channel (R410). -/
def State.pipeSquelch (s : State) (b : Nat) (sig : List Cplx) (p : Pipe) : Pipe :=
  if b = 0 then
    let isOpen := s.cfg.squelchOpen s.cr.squelchThr sig p.bank.demod.mode
    { p with
        x := if isOpen then p.x else p.x.map fun _ => .zero
        bad := p.bad || !s.cr.squelchThr.isFinite }
  else p

/-- The audio RMS of the primary channel (R411). Audio that a stage of the command made not finite does not count as read here
(DESIGN CHOICE, log 3). -/
def State.pipeRms (s : State) (b : Nat) (p : Pipe) : Pipe :=
  if b = 0 then
    { p with
        cr := { p.cr with audioRms := s.cfg.measureRms p.x }
        crFreed := { p.crFreed with audioRms := Config.freeReal s.draws (1 :: placeTelemetry) } }
  else p

/-- What stage 9 reads of the configuration, in one snapshot (R401, R412, R413). -/
def State.keyCfg (s : State) : KeyCfg :=
  { fade := Params.fadeLen s.cfg s.draws, hold := Params.holdLen s.cfg s.draws s.cr.holdDelay,
    freq := s.cr.sidetoneFreq, down := s.cr.keyDown, toneSel := s.cr.keyTone }

/-- Stage 9: mute, sidetone, stereo (R401). Audio that a stage of the command made not finite does not count as read here
(DESIGN CHOICE, log 3). -/
def State.pipeKey (s : State) (kind : ModeKind) (p : Pipe) : Pipe :=
  let r := keyLoop s.cfg s.keyCfg kind p.bank.key p.x
  let tone := if p.x.isEmpty then r.k.tone else Config.freeReal s.draws (1 :: placeKey)
  { p with
      x := r.out
      bank := { p.bank with key := r.k }
      bankFreed := { p.bankFreed with key := { r.k with tone := tone } }
      bad := p.bad || r.bad }

/-- The stages up to the decimated stream, whose block is `sig` (R401). -/
def State.pipeFront (s : State) (b rateHz : Nat) : Pipe :=
  s.pipeSmeter b (s.pipeFrac (s.pipeChain (s.pipeBlank (s.pipeTune b rateHz (s.pipeStart b)))))

/-- The stages from the decimated stream to the restoration of the rate (R401, R409). -/
def State.pipeAudio (s : State) (b : Nat) (r : ModeRec) (p : Pipe) : Pipe :=
  let q := if r.agcOnBaseband then s.pipeAgc b true p else p
  s.pipeNotch b r.kind (s.pipeDemod b q)

/-- The stages from the restoration of the rate on (R401). -/
def State.pipeBack (s : State) (b : Nat) (r : ModeRec) (sig : List Cplx) (p : Pipe) : Pipe :=
  let q := s.pipeSquelch b sig (s.pipeRestore p)
  let q := if r.agcOnBaseband then q else s.pipeAgc b (decide (r.kind = .digRaw)) q
  s.pipeKey r.kind (s.pipeRms b q)

/-- The record of the mode the bank's demodulator latched (R251). -/
def State.latchedMode (s : State) (b : Nat) : ModeRec := s.cfg.modeRec (s.bank b).demod.mode

/-- The checks of PIPERX in their order (R401 steps 1 to 7, R450; log 14). -/
def State.pipeChecks (s : State) (id : Nat) : List Check :=
  let k := s.bank id
  let c := s.bankRegs id
  let nrx := s.cr.nrx.toNat
  let rate := s.cfg.rateHz k.chain.rateId
  [ idCheck id s.nbanks,
    ⟨decide (1 ≤ nrx ∧ nrx ≤ s.nbanks ∧ id < nrx), .param, 0⟩,
    s.sizeCheck,
    ⟨decide (1 ≤ s.opN), .noData, 0⟩,
    s.boundsCheck s.a0 s.opN,
    s.boundsCheck s.a2 s.cfg.maxBlock,
    boundCheck (k.chain.valid && k.demod.valid && k.agc.valid && (decide (s.cr.nbLevel = 0) || k.nb.valid) &&
      (!s.notchRuns id (s.latchedMode id).kind || k.notch.valid)) id,
    ⟨rate.isSome, .param, 0⟩,
    ⟨c.tune.isFinite && c.tune.abs.le ((Real64.ofNat (rate.getD 0)).div .two), .param, 0⟩ ] ++
  s.agcChecks ++ s.stageChecks k.chain.stages ++
  (if k.fractional then [stepCheck k.fracStep] else []) ++
  s.demodChecks k.demod c ++ s.stageChecks k.demod.int

/-- PIPERX (R401): every stage on a working copy, committed as a whole. -/
def execPiperx (id : Nat) (s : State) : Res :=
  let r := s.latchedMode id
  let rate := (s.cfg.rateHz (s.bank id).chain.rateId).getD 0
  let front := s.pipeFront id rate
  let audio := s.pipeAudio id r front
  let need := (s.bank id).demod.stale (s.bankRegs id) ||
    s.stagesGrow placeRestore (s.bank id).demod.int audio.x
  s.checked (s.pipeChecks id) fun s => s.allocating need fun s =>
    let p := s.pipeBack id r front.x audio
    let out := emitted s.draws .cplx p.bad p.x
    let t := s.setBank id (if p.bad then p.bankFreed else p.bank)
    .next ({ t with cr := if p.bad then p.crFreed else p.cr }.finishBuf s.op2 out p.truncs)

/-! ## Housekeeping -/

/-- NOP (R420): `ID` is ignored. -/
def execNop (_id : Nat) (s : State) : Res := .next s.finishInit

/-- `NOTCH_BIN0` and `NOTCH_BIN1` without a target, when the bank is the primary one (R421). -/
def CtrlRegs.freeNotch (c : CtrlRegs) (b : Nat) : CtrlRegs :=
  if b = 0 then { c with notchBin0 := 0xFFFFFFFF, notchBin1 := 0xFFFFFFFF } else c

/-- BKFREE (R421). -/
def execBkfree (id : Nat) (s : State) : Res :=
  s.checked [idCheck id s.nbanks] fun s =>
    let t := (s.setBank id {}).setAchRate id .zero
    .next { t with cr := t.cr.freeNotch id }.finishInit

end Sys2Proof.Machine
end

