-- ==== Sys2Proof/Machine/Dispatch.lean ====
section
/-! DEFINITION. The meaning of every command (spec/30_encoding.md rule R130): one arm per constructor. -/

namespace Sys2Proof.Machine

def exec (i : Instr) (s : State) : Host.Outcome State Fault Refusal :=
  match i with
  | .nop id => Sys2Proof.Machine.execNop id s
  | .finit v id => Sys2Proof.Machine.execFinit v id s
  | .ftune l id => Sys2Proof.Machine.execFtune l id s
  | .fapply id => Sys2Proof.Machine.execFapply id s
  | .fdecim id => Sys2Proof.Machine.execFdecim id s
  | .finterp id => Sys2Proof.Machine.execFinterp id s
  | .fresamp id => Sys2Proof.Machine.execFresamp id s
  | .hbinit v id => Sys2Proof.Machine.execHbinit v id s
  | .hbdec2 id => Sys2Proof.Machine.execHbdec2 id s
  | .hbint2 id => Sys2Proof.Machine.execHbint2 id s
  | .chsel w id => Sys2Proof.Machine.execChsel w id s
  | .chrun id => Sys2Proof.Machine.execChrun id s
  | .frac id => Sys2Proof.Machine.execFrac id s
  | .dminit id => Sys2Proof.Machine.execDminit id s
  | .demod id => Sys2Proof.Machine.execDemod id s
  | .restore id => Sys2Proof.Machine.execRestore id s
  | .modinit id => Sys2Proof.Machine.execModinit id s
  | .mod id => Sys2Proof.Machine.execMod id s
  | .agcinit f id => Sys2Proof.Machine.execAgcinit f id s
  | .agcrun x id => Sys2Proof.Machine.execAgcrun x id s
  | .nbinit id => Sys2Proof.Machine.execNbinit id s
  | .nbrun id => Sys2Proof.Machine.execNbrun id s
  | .aninit id => Sys2Proof.Machine.execAninit id s
  | .anrun id => Sys2Proof.Machine.execAnrun id s
  | .piperx id => Sys2Proof.Machine.execPiperx id s
  | .bkfree id => Sys2Proof.Machine.execBkfree id s

end Sys2Proof.Machine
end

