-- ==== Sys2Proof/Machine/HostActions.lean ====
section
/-! DEFINITION. The host actions (spec/20_memory.md rule R99), each one step: writing an argument register, issuing a command,
reading and writing registers, loading a table (R92), reading and writing sample memory, reset (R78). -/

namespace Sys2Proof.Machine

/-- The well-formed configurations, outside which the engine has no step for a command (U22; log 22). -/
def State.configOk (s : State) : Bool :=
  s.cfg.ok && decide (1 ≤ s.nbanks ∧ s.nbanks ≤ 32) &&
    decide (s.cfg.tabFinalSharp < s.ntab ∧ s.cfg.tabFinalLoose < s.ntab)

/-- `A[i]` (R21). -/
def State.readA (s : State) (i : Fin 4) : Word64 :=
  match i with
  | 0 => s.a0
  | 1 => s.a1
  | 2 => s.a2
  | 3 => s.a3

/-- `A[i] <- w` (R21). -/
def State.writeA (s : State) (i : Fin 4) (w : Word64) : State :=
  match i with
  | 0 => { s with a0 := w }
  | 1 => { s with a1 := w }
  | 2 => { s with a2 := w }
  | 3 => { s with a3 := w }

/-- `R[i]` (R22). -/
def State.readR (s : State) (i : Fin 2) : Word64 :=
  match i with
  | 0 => s.r0
  | 1 => s.r1

/-- `LoadTable(t, vals)` (R92): nothing on arguments out of range. -/
def State.loadTable (s : State) (t : Nat) (vals : List Real64) : State :=
  if t < s.ntab ∧ 1 ≤ vals.length ∧ vals.length ≤ s.cfg.maxTaps then { s with ct := s.ct.set t (some ⟨vals⟩) } else s

/-- The cells `a .. a + n − 1` exist (R37); with no cell at all, the base lies within memory or just past it (DESIGN CHOICE,
log 25). -/
def State.cellsExist (s : State) (a n : Nat) : Bool := decide (a + n ≤ s.cfg.smSize)

/-- `WriteSM(a, vals)` (R99; log 25). -/
def State.writeSM (s : State) (a : Nat) (vals : List Cplx) : Res :=
  if s.cellsExist a vals.length then .next { s with sm := s.sm.writeBlock a vals } else .fault .noSuchCell

/-- `ReadSM(a, n)` (R99; log 25). -/
def State.readSM (s : State) (a n : Nat) : Res :=
  if s.cellsExist a n then .next { s with reply := .cells (s.sm.readBlock a n) } else .fault .noSuchCell

/-- `Reset` (R99): the reset state of the same engine; the host's actions to come and the environment's answers are not the
engine's (log 29). -/
def State.resetAction (s : State) : State :=
  { State.resetOf s.cfg s.ntab s.nfilt s.nhb s.nbanks with host := s.host, allocs := s.allocs, draws := s.draws }

/-- `IssueCmd(w)` (R99, R121): the command runs to completion; an illegal word raises `E_BADOP` (R140). -/
def State.issue (s : State) (w : Word32) : Res :=
  if s.configOk then
    match decode w with
    | some i => exec i s
    | none => .next (s.raise .badOp (w.setWidth 64))
  else .fault .illFormedConfiguration

/-- One host action (R99). -/
def State.act (s : State) (a : HostAction) : Res :=
  match a with
  | .writeA i w => .next (s.writeA i w)
  | .issueCmd w => s.issue w
  | .readR i => .next { s with reply := .word (s.readR i) }
  | .readCR n => .next { s with reply := .word (s.readCR n) }
  | .writeCR n w => .next (s.writeCR n w)
  | .loadTable t vals => .next (s.loadTable t vals)
  | .writeSM a vals => s.writeSM a vals
  | .readSM a n => s.readSM a n
  | .reset => .next s.resetAction

/-- A command word at the head of the host's actions (log 10). -/
def State.queueCommand (s : State) (w : Word32) : State := { s with host := .issueCmd w :: s.host }

end Sys2Proof.Machine
end

