-- ==== Sys2Proof/Machine/Step.lean ====
section
/-! DEFINITION. One step: the next host action (spec/10_state.md rule R26, spec/20_memory.md rules R97, R99). The engine fetches
no instructions: a command comes from the host, whose actions stand in `State.host` (log 10). -/

namespace Sys2Proof.Machine

/-- One step: the oldest host action still to come; an engine nobody acts on is idle and keeps all state (R460). -/
def step (s : State) : Host.Outcome State Fault Refusal :=
  match s.host with
  | [] => .next s
  | a :: rest => State.act { s with host := rest } a

/-- The state whose very next step runs the command that the opcode table numbers `w` (log 10). -/
def State.withFetchWord (s : State) (nbits w : Nat) : State :=
  s.queueCommand (BitVec.ofNat 32 (w % 2 ^ nbits))

end Sys2Proof.Machine
end

