-- ==== Sys2Proof/Safety.lean ====
section
/-! DEFINITION. What counts as a safe run, in the terms the statements use: the invariants of the state (spec/10_state.md rules
R30 to R36, R61 to R68), what a command may change (rules R21 to R23, R29, spec/20_memory.md rules R86 to R89,
spec/60_exceptions.md rule R444), how a command ends (R22, R41, R448), the opcode map as match and mask (R130), and the samples
a component has received, by their age (R31, R161, R205). -/

namespace Sys2Proof.Machine

/-! ## The opcode map, as match and mask (R130) -/

/-- A row of R130. -/
structure OpcodeRow where
  mnemonic : String
  pattern : Word32
  mask : Word32
deriving DecidableEq, Repr

/-- The 26 rows of R130. -/
def opcodeRows : List OpcodeRow :=
  [ ⟨"NOP", 0x00000000, 0xFFFF0000⟩, ⟨"FINIT", 0x10000000, 0xFFFE0000⟩, ⟨"FTUNE", 0x11000000, 0xFFFE0000⟩,
    ⟨"FAPPLY", 0x12000000, 0xFFFF0000⟩, ⟨"FDECIM", 0x13000000, 0xFFFF0000⟩, ⟨"FINTERP", 0x14000000, 0xFFFF0000⟩,
    ⟨"FRESAMP", 0x15000000, 0xFFFF0000⟩, ⟨"HBINIT", 0x20000000, 0xFFFE0000⟩, ⟨"HBDEC2", 0x21000000, 0xFFFF0000⟩,
    ⟨"HBINT2", 0x22000000, 0xFFFF0000⟩ ] ++
  [ ⟨"CHSEL", 0x30000000, 0xFFFE0000⟩, ⟨"CHRUN", 0x31000000, 0xFFFF0000⟩, ⟨"FRAC", 0x32000000, 0xFFFF0000⟩,
    ⟨"DMINIT", 0x40000000, 0xFFFF0000⟩, ⟨"DEMOD", 0x41000000, 0xFFFF0000⟩, ⟨"RESTORE", 0x42000000, 0xFFFF0000⟩,
    ⟨"MODINIT", 0x43000000, 0xFFFF0000⟩, ⟨"MOD", 0x44000000, 0xFFFF0000⟩ ] ++
  [ ⟨"AGCINIT", 0x50000000, 0xFFFE0000⟩, ⟨"AGCRUN", 0x51000000, 0xFFFE0000⟩, ⟨"NBINIT", 0x60000000, 0xFFFF0000⟩,
    ⟨"NBRUN", 0x61000000, 0xFFFF0000⟩, ⟨"ANINIT", 0x70000000, 0xFFFF0000⟩, ⟨"ANRUN", 0x71000000, 0xFFFF0000⟩,
    ⟨"PIPERX", 0x80000000, 0xFFFF0000⟩, ⟨"BKFREE", 0xF0000000, 0xFFFF0000⟩ ]

/-- A word is a row's command iff `(w & mask) == match` (R130). -/
def OpcodeRow.matches (r : OpcodeRow) (w : Word32) : Bool := w &&& r.mask == r.pattern

/-- The mnemonic of a command (R130). -/
def mnemonicOf : Instr → String
  | .nop _ => "NOP"
  | .finit _ _ => "FINIT"
  | .ftune _ _ => "FTUNE"
  | .fapply _ => "FAPPLY"
  | .fdecim _ => "FDECIM"
  | .finterp _ => "FINTERP"
  | .fresamp _ => "FRESAMP"
  | .hbinit _ _ => "HBINIT"
  | .hbdec2 _ => "HBDEC2"
  | .hbint2 _ => "HBINT2"
  | .chsel _ _ => "CHSEL"
  | .chrun _ => "CHRUN"
  | .frac _ => "FRAC"
  | .dminit _ => "DMINIT"
  | .demod _ => "DEMOD"
  | .restore _ => "RESTORE"
  | .modinit _ => "MODINIT"
  | .mod _ => "MOD"
  | .agcinit _ _ => "AGCINIT"
  | .agcrun _ _ => "AGCRUN"
  | .nbinit _ => "NBINIT"
  | .nbrun _ => "NBRUN"
  | .aninit _ => "ANINIT"
  | .anrun _ => "ANRUN"
  | .piperx _ => "PIPERX"
  | .bkfree _ => "BKFREE"

/-! ## What a command names (R122, R123) -/

/-- What the `ID` field of a command names. -/
inductive IdKind where
  | ignored | filter | half | bank
deriving DecidableEq, Repr

/-- R122. -/
def idKind : Instr → IdKind
  | .nop _ => .ignored
  | .finit _ _ => .filter
  | .ftune _ _ => .filter
  | .fapply _ => .filter
  | .fdecim _ => .filter
  | .finterp _ => .filter
  | .fresamp _ => .filter
  | .hbinit _ _ => .half
  | .hbdec2 _ => .half
  | .hbint2 _ => .half
  | .chsel _ _ => .bank
  | .chrun _ => .bank
  | .frac _ => .bank
  | .dminit _ => .bank
  | .demod _ => .bank
  | .restore _ => .bank
  | .modinit _ => .bank
  | .mod _ => .bank
  | .agcinit _ _ => .bank
  | .agcrun _ _ => .bank
  | .nbinit _ => .bank
  | .nbrun _ => .bank
  | .aninit _ => .bank
  | .anrun _ => .bank
  | .piperx _ => .bank
  | .bkfree _ => .bank

/-- The commands of formats B, R, Q, S: a buffer at `A0` of `A1` samples, results at the same base (R123). -/
def inPlace : Instr → Bool
  | .nop _ => false
  | .finit _ _ => false
  | .ftune _ _ => false
  | .fapply _ => true
  | .fdecim _ => true
  | .finterp _ => true
  | .fresamp _ => true
  | .hbinit _ _ => false
  | .hbdec2 _ => true
  | .hbint2 _ => true
  | .chsel _ _ => false
  | .chrun _ => true
  | .frac _ => true
  | .dminit _ => false
  | .demod _ => true
  | .restore _ => true
  | .modinit _ => false
  | .mod _ => true
  | .agcinit _ _ => false
  | .agcrun _ _ => true
  | .nbinit _ => false
  | .nbrun _ => true
  | .aninit _ => false
  | .anrun _ => true
  | .piperx _ => false
  | .bkfree _ => false

/-- How many things of the kind exist (R122). -/
def State.idCount (s : State) : IdKind → Option Nat
  | .ignored => none
  | .filter => some s.nfilt
  | .half => some s.nhb
  | .bank => some s.nbanks

/-- The `ID` of a command is in range; `NOP` ignores it (R122). -/
abbrev State.idInRange (s : State) (i : Instr) : Prop := ∀ n ∈ s.idCount (idKind i), i.id < n

/-! ## The invariants -/

/-- A bound filter instance (R30 to R32, R36). -/
abbrev FilterInst.Ok (p : Params) (f : FilterInst) : Prop :=
  f.bound = true →
    1 ≤ f.taps ∧ f.taps ≤ p.maxTaps ∧ f.hist.length = f.taps ∧ f.cur < f.taps ∧ (∀ t ∈ f.tuned, t.length = f.taps) ∧
      (f.variant = .real → f.tuned = none ∧ ∀ z ∈ f.hist, z.im = .zero)

/-- A half-band instance (R34): 45 samples, real ones in the real variant. -/
abbrev HBInst.Ok (i : HBInst) : Prop := i.win.length = 45 ∧ (i.variant = .real → ∀ z ∈ i.win, z.im = .zero)

/-- A stage of a cascade (R61, R221): its filter is bound, its ratio at least 2, its phase below it (R171). -/
def StageInst.Ok (p : Params) : StageInst → Prop
  | .hb i => i.Ok
  | .fir f r => f.bound = true ∧ f.Ok p ∧ 2 ≤ r ∧ f.phase < r

/-- A noise blanker in use (R65, R331). -/
abbrev NBState.Ok (b : NBState) : Prop :=
  b.valid = true →
    2 ≤ b.w ∧ b.h = b.w / 2 ∧ b.bufS.length = b.w ∧ b.bufM.length = b.w ∧ b.idx < b.w ∧ b.seen ≤ b.w ∧ b.ramp ≤ b.h ∧
      (b.st = .windowRaising → b.ramp < b.h)

/-- An AGC in use (R66). -/
abbrev AGCState.Ok (g : AGCState) : Prop :=
  g.valid = true → 1 ≤ g.len ∧ g.buf.length = g.len ∧ g.indexRead < g.len ∧ g.indexStart < g.len

/-- A tracked interferer (R366, R367): the counter in its range, a target among the searchable bins. -/
abbrev NotchSlot.Ok (p : Params) (x : NotchSlot) : Prop :=
  p.anHmin ≤ x.cnt ∧ x.cnt ≤ p.anHmax ∧ -1 ≤ x.prev ∧
    (∀ q ∈ x.tgt, 1 ≤ q ∧ q < p.anNfft / 2) ∧ (∀ q ∈ x.builtFor, 1 ≤ q ∧ q < p.anNfft / 2)

/-- An auto-notch in use (R68, R361). -/
abbrev NotchState.Ok (p : Params) (t : NotchState) : Prop :=
  t.valid = true →
    t.blk.length = p.anNfft ∧ t.fill < p.anB ∧ t.avg.length = p.anNfft / 2 + 1 ∧ t.slot0.Ok p ∧ t.slot1.Ok p ∧
      t.kernel.length = p.anNfft ∧ t.dly.length = p.anExtraDelay

/-- A demodulator in use (R63, R254): a mode that exists, its stages and its receive filter bound, the filter complex. -/
def DemodState.Ok (p : Params) (d : DemodState) : Prop :=
  d.valid = true →
    d.mode ≤ 12 ∧ (∀ x ∈ d.dec, x.Ok p) ∧ (∀ x ∈ d.int, x.Ok p) ∧ d.rxf.bound = true ∧ d.rxf.variant = .cplx ∧ d.rxf.Ok p

/-- The components of a bank (R60). -/
def Bank.Ok (p : Params) (k : Bank) : Prop :=
  (∀ x ∈ k.chain.stages, x.Ok p) ∧ k.demod.Ok p ∧ k.nb.Ok ∧ k.agc.Ok ∧ k.notch.Ok p

/-- A table has between 1 and `MAXTAPS` values (R36, R92). -/
abbrev State.TablesOk (s : State) : Prop :=
  ∀ o ∈ s.ct, ∀ t ∈ o, 1 ≤ t.val.length ∧ t.val.length ≤ s.cfg.maxTaps

/-- Sample memory is canonical and lists only cells that exist (R37, log 9). -/
abbrev State.MemoryOk (s : State) : Prop := s.sm.wf = true ∧ ∀ c ∈ s.sm, c.1 < s.cfg.smSize

/-- Tables, instances and banks are as R30 to R36 and R60 to R68 describe them; a notch is in use on bank 0 only (R364). -/
def State.ComponentsOk (s : State) : Prop :=
  s.TablesOk ∧ (∀ f ∈ s.fi, f.Ok s.cfg) ∧ (∀ i ∈ s.hb, i.Ok) ∧ (∀ c ∈ s.chans, c.bank.Ok s.cfg) ∧
    ∀ b, 1 ≤ b → (s.bank b).notch.valid = false

/-! ## How a command ends -/

/-- A command completed (R22, R41, R448): its results, `STATUS`, no error counted, `XRUN_CNT` up when it truncated. -/
abbrev State.Completed (s t : State) (r0 r1 : Word64) (trunc : Bool) : Prop :=
  t.r0 = r0 ∧ t.r1 = r1 ∧ t.cr.status = { code := 0, trunc := trunc } ∧ t.cr.errCnt = s.cr.errCnt ∧
    t.cr.xrunCnt = s.cr.xrunCnt + if trunc then 1 else 0

/-- What an error leaves (R443, R444), field by field. -/
abbrev State.Raised (s t : State) (code : BitVec 8) (info : Word64) : Prop :=
  t = { s with r0 := 0, r1 := info, cr := { s.cr with status := { code := code, trunc := false }, errCnt := s.cr.errCnt + 1 } }

/-- The command raises the error `code`, which records `info` (R443, R444). -/
abbrev State.Raises (s : State) (i : Instr) (code : BitVec 8) (info : Word64) : Prop :=
  ∃ t, exec i s = .next t ∧ State.Raised s t code info

/-! ## What a command may change -/

/-- No cell outside `[a, a + k)` changes (R86). -/
def State.KeepsCellsOutside (s t : State) (a k : Nat) : Prop :=
  ∀ x, ¬(a ≤ x ∧ x < a + k) → t.sm.read x = s.sm.read x

/-- Of the control registers only `STATUS`, `ERR_CNT` and `XRUN_CNT` change. -/
def CtrlRegs.KeepsAllButCounters (c d : CtrlRegs) : Prop :=
  d = { c with status := d.status, errCnt := d.errCnt, xrunCnt := d.xrunCnt }

/-- Of the control registers only `STATUS` and telemetry change (R23, R40, R56). -/
def CtrlRegs.KeepsConfiguration (c d : CtrlRegs) : Prop :=
  d = { c with
    status := d.status, ovrCnt := d.ovrCnt, smeter := d.smeter, audioRms := d.audioRms, agcGain := d.agcGain,
    notchBin0 := d.notchBin0, notchBin1 := d.notchBin1, errCnt := d.errCnt, xrunCnt := d.xrunCnt }

/-- What a command that names a filter instance, and stores in `[a, a + k)`, may change. -/
def State.FilterFrame (s t : State) (id a k : Nat) : Prop :=
  t = { s with
    r0 := t.r0, r1 := t.r1, cr := t.cr, sm := t.sm, fi := t.fi, allocs := t.allocs, draws := t.draws } ∧
  s.cr.KeepsAllButCounters t.cr ∧ s.KeepsCellsOutside t a k ∧
  t.fi.length = s.fi.length ∧ ∀ j, j ≠ id → t.filter j = s.filter j

/-- What a command that names a half-band instance, and stores in `[a, a + k)`, may change. -/
def State.HalfFrame (s t : State) (id a k : Nat) : Prop :=
  t = { s with r0 := t.r0, r1 := t.r1, cr := t.cr, sm := t.sm, hb := t.hb, draws := t.draws } ∧
  s.cr.KeepsAllButCounters t.cr ∧ s.KeepsCellsOutside t a k ∧
  t.hb.length = s.hb.length ∧ ∀ j, j ≠ id → t.half j = s.half j

/-- What a command that names a bank, and stores in `[a, a + k)`, may change: of the bank's registers only `ACH_RATE`. -/
def State.BankFrame (s t : State) (id a k : Nat) : Prop :=
  t = { s with
    r0 := t.r0, r1 := t.r1, cr := t.cr, sm := t.sm, chans := t.chans, allocs := t.allocs, draws := t.draws } ∧
  s.cr.KeepsConfiguration t.cr ∧ s.KeepsCellsOutside t a k ∧
  t.chans.length = s.chans.length ∧ (∀ j, j ≠ id → t.chan j = s.chan j) ∧ t.bankRegs id = s.bankRegs id

/-- The cells a command may change in the state it leaves: `R0` cells from its base, none when it has no sample output. -/
def storedAt (i : Instr) (s t : State) : Nat × Nat :=
  match i with
  | .piperx _ => (s.op2, t.r0.toNat)
  | _ => if inPlace i then (s.opA, t.r0.toNat) else (0, 0)

/-! ## The samples a component has received, by their age -/

/-- The input received `q` inputs before input `m` of a block: one of the block, or one the history holds (R31, R161). -/
def FilterInst.received (f : FilterInst) (x : List Cplx) (m q : Nat) : Cplx :=
  if q ≤ m then x.getD (m - q) .zero else f.hist.getD ((f.cur + f.taps - (q - m)) % f.taps) .zero

/-- The sum `Σ coef(k) · x[m − q]` over `k = s, s + d, …` with `q = 0, 1, …`, at input `m` of a block (R160, R161). -/
def FilterInst.branch (f : FilterInst) (tb : List Real64) (x : List Cplx) (m s d : Nat) : Cplx :=
  (List.range (f.tapCount s d)).foldl (fun acc q => acc.add (f.tapMul tb (s + q * d) (f.received x m q))) .zero

/-- Nothing that a filtering command reads is NaN or infinite. -/
abbrev FilterInst.AllFinite (f : FilterInst) (tb : List Real64) (x : List Cplx) : Prop :=
  (∀ z ∈ x, z.isFinite = true) ∧ (∀ z ∈ f.hist, z.isFinite = true) ∧ (∀ k < f.taps, f.tapFinite tb k = true)

/-- A filter that a command can run: bound, with its table, and well formed. -/
abbrev State.FilterReady (s : State) (f : FilterInst) : Prop :=
  f.bound = true ∧ f.Ok s.cfg ∧ (s.tableFor f).isSome = true

/-- The buffer operand of a command: a count within `MAXBLOCK`, an extent within memory (R86). -/
abbrev State.BufferOk (s : State) (e : Nat) : Prop := s.opN ≤ s.cfg.maxBlock ∧ s.opA + e ≤ s.cfg.smSize

/-- The cell of a result, by the sample type of the command (R85). -/
def cellOf (v : Variant) (z : Cplx) : Cplx :=
  match v with
  | .cplx => z
  | .real => z.realPart

/-- The input received `k` inputs before input `m` of a block: one of the block, or one of the window (R205). -/
def HBInst.received (i : HBInst) (x : List Cplx) (m k : Nat) : Cplx :=
  if k ≤ m then x.getD (m - k) .zero else i.win.getD (k - m - 1) .zero

/-- A sum of symmetric pairs at input `m` of a block (R206, R208). -/
def HBInst.pairSum (i : HBInst) (h : List Real64) (x : List Cplx) (m count top : Nat) (c : Nat → Nat) : Cplx :=
  (List.range count).foldl
    (fun acc k => acc.add (((i.received x m k).add (i.received x m (top - k))).scale (h.getD (c k) .zero))) .zero

/-- Nothing that a half-band command reads is NaN or infinite. -/
abbrev HBInst.AllFinite (i : HBInst) (x : List Cplx) : Prop :=
  (∀ z ∈ x, z.isFinite = true) ∧ ∀ z ∈ i.win, z.isFinite = true

/-! ## Counts -/

/-- The phase of a decimating stage: how many inputs it has taken since its last output (R170, R206). -/
def StageInst.carried : StageInst → Nat
  | .hb i => if i.toggle then 1 else 0
  | .fir f _ => f.phase

/-- The number of outputs of a decimating cascade on `n` inputs: each stage gives `(n + carried) / ratio` (R170, R206, R228). -/
def cascadeCount : List StageInst → Nat → Nat
  | [], n => n
  | x :: rest, n => cascadeCount rest ((n + x.carried) / x.ratio)

/-- Every FIR stage's table resolves (R93). -/
def State.StagesReady (s : State) (st : List StageInst) : Prop := ∀ c ∈ s.stageChecks st, c.ok = true

/-- The table an instance references is missing or has another length (R93). -/
abbrev State.Unresolved (s : State) (f : FilterInst) : Prop := ∀ t, s.table f.tab = some t → t.val.length ≠ f.taps

/-- The first stage of a cascade whose table does not resolve references the table `t` (R93, R228). -/
def State.FirstUnresolved (s : State) (st : List StageInst) (t : Nat) : Prop :=
  ∃ before f r rest, st = before ++ .fir f r :: rest ∧ s.StagesReady before ∧ s.Unresolved f ∧ f.tab = t

/-- Every table slot the descriptors name holds a table (R224, R254). -/
abbrev State.SlotsFilled (s : State) (ds : List StageDesc) : Prop := ∀ d ∈ ds, ∀ r t, d = .fir r t → (s.table t).isSome = true

/-- The receive filter's registers differ from the values it was last tuned with (R257). -/
abbrev DemodState.Stale (d : DemodState) (c : BankRegs) : Prop := c.rxfTab.toNat ≠ d.rxfTab ∨ c.rxfFreq ≠ d.rxfFreq

/-- What the filter refresh requires (R257). -/
def State.RefreshReady (s : State) (d : DemodState) (c : BankRegs) : Prop :=
  (d.Stale c → c.rxfTab.toNat < s.ntab ∧ c.rxfFreq.isFinite = true ∧ (s.table c.rxfTab.toNat).isSome = true) ∧
    (¬d.Stale c → ∃ tb, s.table d.rxfTab = some tb ∧ tb.val.length = d.rxf.taps)

/-! ## Cascades over a sequence (R228, R270) -/

/-- What a decimating stage makes of a sequence (R170, R206), each output by the age of its inputs. -/
def State.stageDecimates (s : State) : StageInst → List Cplx → List Cplx
  | .hb i, x =>
    let c := if i.toggle then 1 else 0
    let y := x.map (cellOf i.variant)
    (List.range ((x.length + c) / 2)).map fun j =>
      cellOf i.variant
        ((i.pairSum s.cfg.hb45 y (2 * j + 1 - c) 22 44 fun k => k).add
          ((i.received y (2 * j + 1 - c) 22).scale (s.cfg.hb45.getD 22 .zero)))
  | .fir f r, x =>
    (List.range ((x.length + f.phase) / r)).map fun j =>
      cellOf f.variant (f.branch (s.coefs f) (x.map (cellOf f.variant)) ((j + 1) * r - 1 - f.phase) 0 1)

/-- What an interpolating stage makes of a sequence (R172, R208), cut at `MAXBLOCK` (R448). -/
def State.stageInterpolates (s : State) : StageInst → List Cplx → List Cplx
  | .hb i, x =>
    let h := s.cfg.hb45
    let y := x.map (cellOf i.variant)
    (List.range (2 * min x.length (s.cfg.maxBlock / 2))).map fun q =>
      cellOf i.variant
        ((if q % 2 = 0 then
            (i.pairSum h y (q / 2) 11 22 fun k => 2 * k).add ((i.received y (q / 2) 11).scale (h.getD 22 .zero))
          else i.pairSum h y (q / 2) 11 21 fun k => 2 * k + 1).scale .two)
  | .fir f r, x =>
    (List.range (min x.length (s.cfg.maxBlock / r) * r)).map fun q =>
      cellOf f.variant ((f.branch (s.coefs f) (x.map (cellOf f.variant)) (q / r) (q % r) r).scale (.ofNat r))

/-- A cascade over a sequence: each stage on what the one before it made. -/
def cascaded (stage : StageInst → List Cplx → List Cplx) (st : List StageInst) (x : List Cplx) : List Cplx :=
  st.foldl (fun y k => stage k y) x

/-- Nothing that a stage reads is NaN or infinite. -/
def State.StageFinite (s : State) : StageInst → List Cplx → Prop
  | .hb i, x => i.AllFinite x
  | .fir f _, x => f.AllFinite (s.coefs f) x

/-- Nothing that a stage of a cascade reads is NaN or infinite. -/
def State.CascadeFinite (s : State) (stage : StageInst → List Cplx → List Cplx) : List StageInst → List Cplx → Prop
  | [], _ => True
  | k :: rest, x => s.StageFinite k x ∧ s.CascadeFinite stage rest (stage k x)

/-- How many of `n` inputs an interpolating stage consumes before `MAXBLOCK` cuts it (R448). -/
def State.eaten (s : State) (k : StageInst) (n : Nat) : Nat := min n (s.cfg.maxBlock / k.ratio)

/-- How many outputs an interpolating cascade makes of `n` inputs. -/
def State.interpolatedCount (s : State) : List StageInst → Nat → Nat
  | [], n => n
  | k :: rest, n => s.interpolatedCount rest (s.eaten k n * k.ratio)

/-- Some stage of an interpolating cascade is cut (R448). -/
def State.interpolationCut (s : State) : List StageInst → Nat → Bool
  | [], _ => false
  | k :: rest, n => decide (s.eaten k n < n) || s.interpolationCut rest (s.eaten k n * k.ratio)

/-- Some FIR stage of an interpolating cascade gets more inputs than its scratch buffer holds (R175). -/
def State.outgrown (s : State) : List StageInst → Nat → Bool
  | [], _ => false
  | k :: rest, n =>
    (match k with
     | .hb _ => false
     | .fir f _ => decide (f.scap < n)) || s.outgrown rest (s.eaten k n * k.ratio)

/-- What a decimating stage carries to the next command after `n` inputs (R170, R206, R228): its phase is what is left of the inputs,
its cursor moved with them, and nothing else of it but the samples it holds changed. -/
def StageInst.CarriesDown (n : Nat) : StageInst → StageInst → Prop
  | .hb i, .hb j =>
    j = { i with win := j.win, toggle := decide ((n + if i.toggle then 1 else 0) % 2 = 1) } ∧ j.win.length = i.win.length
  | .fir f r, .fir g q =>
    q = r ∧ g = { f with hist := g.hist, cur := (f.cur + n) % f.taps, phase := (n + f.phase) % r } ∧
      g.hist.length = f.hist.length
  | _, _ => False

/-- What an interpolating stage carries to the next command after `n` inputs of which it consumed `m` (R172, R175, R208, R270). -/
def StageInst.CarriesUp (n m : Nat) : StageInst → StageInst → Prop
  | .hb i, .hb j => j = { i with win := j.win } ∧ j.win.length = i.win.length
  | .fir f r, .fir g q =>
    q = r ∧
      g = { f with hist := g.hist, cur := (f.cur + m) % f.taps, scap := if f.scap < n then 2 * n else f.scap } ∧
      g.hist.length = f.hist.length
  | _, _ => False

/-- The samples a stage holds after the inputs `x`, each by its age (R31, R205). -/
def StageInst.Remembers (x : List Cplx) : StageInst → StageInst → Prop
  | .hb i, .hb j => ∀ q < 45, j.win.getD q .zero = i.received (x.map (cellOf i.variant)) x.length (q + 1)
  | .fir f _, .fir g _ => ∀ q < f.taps, g.newest (q + 1) = f.received (x.map (cellOf f.variant)) x.length (q + 1)
  | _, _ => False

/-- What a decimating cascade carries to the next command, stage by stage (R228). -/
def cascadeCarriesDown : List StageInst → List StageInst → Nat → Prop
  | [], [], _ => True
  | k :: st, l :: tu, n => k.CarriesDown n l ∧ cascadeCarriesDown st tu ((n + k.carried) / k.ratio)
  | _, _, _ => False

/-- What an interpolating cascade carries to the next command, stage by stage (R270). -/
def State.cascadeCarriesUp (s : State) : List StageInst → List StageInst → Nat → Prop
  | [], [], _ => True
  | k :: st, l :: tu, n => k.CarriesUp n (s.eaten k n) l ∧ s.cascadeCarriesUp st tu (s.eaten k n * k.ratio)
  | _, _, _ => False

/-- The samples the stages of a cascade hold after a sequence, each by its age; of `n` inputs a stage takes the first `takes`. -/
def cascadeRemembers (takes : StageInst → Nat → Nat) (stage : StageInst → List Cplx → List Cplx) :
    List StageInst → List StageInst → List Cplx → Prop
  | [], [], _ => True
  | k :: st, l :: tu, x =>
    k.Remembers (x.take (takes k x.length)) l ∧ cascadeRemembers takes stage st tu (stage k x)
  | _, _, _ => False

/-- The stage list `MODE_TABLE` gives for the argument `n` (R252): the one the configuration lists, and where it lists none `k`
half-bands for `2 ^ k`. -/
def StageListFor (listed : List (Nat × Option (List StageDesc))) (n : Nat) (ds : List StageDesc) : Prop :=
  listed.lookup n = some (some ds) ∨ listed.lookup n = none ∧ ∃ k, n = 2 ^ k ∧ ds = List.replicate k .hb

/-- The receive bandwidth is no infinity where a mode reads it (R256, U3, U17). -/
abbrev BandwidthOk (k : ModeKind) (bw : Real64) : Prop := k = .digSum ∨ k = .digRaw → bw.isInf = false

/-- The tuned table of a prototype (R165, R257), tap by tap. -/
def tunedTaps (p : Params) (c : List Real64) (f : Real64) (lower : Bool) : List Cplx :=
  (List.range c.length).map fun i =>
    let arg := ((Real64.two.mul .pi).mul f).mul ((Real64.ofNat i).sub ((Real64.ofNat (c.length - 1)).div .two))
    let g := Real64.two.mul (c.getD i .zero)
    if lower then ⟨g.mul (p.sin arg), g.mul (p.cos arg)⟩ else ⟨g.mul (p.cos arg), g.mul (p.sin arg)⟩

/-! ## FRAC: its fractions and its counts (R232) -/

/-- The fraction after `k` outputs at one input: a step added for each (R232). -/
def stepped (step mu : Real64) : Nat → Real64
  | 0 => mu
  | k + 1 => (stepped step mu k).add step

/-- How many outputs the first `m` inputs make when input `i` makes `c i`. -/
def outputsBefore (c : Nat → Nat) : Nat → Nat
  | 0 => 0
  | m + 1 => outputsBefore c m + c m

/-! ## DEMOD: its filter, its stream and its detectors (R256 to R261) -/

/-- The prototype in the table slot that `RXF_TAB[b]` names (R253). -/
def State.rxfPrototype (s : State) (id : Nat) : List Real64 :=
  ((s.table (s.bankRegs id).rxfTab.toNat).map Table.val).getD []

/-- The receive filter a DEMOD runs with (R257): re-tuned when its registers changed, with its history kept when the length stays and
cleared otherwise. -/
def State.demodFilter (s : State) (id : Nat) : FilterInst :=
  let d := (s.bank id).demod
  let c := s.bankRegs id
  let proto := s.rxfPrototype id
  let taps := tunedTaps s.cfg proto c.rxfFreq d.rxfLower
  if d.Stale c then
    if proto.length = d.rxf.taps then { d.rxf with tab := c.rxfTab.toNat, tuned := some taps }
    else { bound := true, variant := .cplx, tab := c.rxfTab.toNat, taps := proto.length, tuned := some taps,
           hist := List.replicate proto.length .zero, cur := 0, phase := 0, scap := 0 }
  else d.rxf

/-- The stream a DEMOD's filter and detector get: its block through the decimating stages (R256). -/
def State.demodStream (s : State) (id : Nat) : List Cplx :=
  cascaded s.stageDecimates (s.bank id).demod.dec (s.input .cplx)

/-- Sample `m` of the stream through the receive filter (R161, R256). -/
def State.demodFiltered (s : State) (id m : Nat) : Cplx :=
  (s.demodFilter id).branch (s.coefs (s.demodFilter id)) (s.demodStream id) m 0 1

/-- The kind of the mode a bank latched (R251). -/
abbrev State.demodKind (s : State) (id : Nat) : ModeKind := (s.cfg.modeRec (s.bank id).demod.mode).kind

/-- The receive filter runs (R256, R264). -/
abbrev State.FilterUsed (s : State) (id : Nat) : Prop :=
  s.demodKind id = .ssbcw ∨ s.demodKind id = .am ∨ s.demodKind id = .fm ∨
    (s.demodKind id = .digSum ∨ s.demodKind id = .digRaw) ∧ (s.bankRegs id).rxfBw.lt s.cfg.digBwThreshold = true

/-- What DEMOD asks of its bank (R256, R257). -/
def State.DemodReady (s : State) (id : Nat) : Prop :=
  let d := (s.bank id).demod
  let c := s.bankRegs id
  d.valid = true ∧ s.demodKind id ≠ .noSemantics ∧ (∀ x ∈ d.dec, x.Ok s.cfg) ∧ s.StagesReady d.dec ∧ s.RefreshReady d c ∧
    (d.Stale c → s.allocOk = true)

/-- The frequency register is finite, a refresh reads no prototype value that is NaN or infinite, and the mode no infinite bandwidth
(R11, U3, U17). -/
def State.DemodTuned (s : State) (id : Nat) : Prop :=
  (s.bankRegs id).rxfFreq.isFinite = true ∧ BandwidthOk (s.demodKind id) (s.bankRegs id).rxfBw ∧
    ((s.bank id).demod.Stale (s.bankRegs id) → ∀ v ∈ s.rxfPrototype id, v.isFinite = true)

/-- DEMOD reads no value that is NaN or infinite (R11; what counts as read: log 3), and the filter it uses is well formed. -/
def State.DemodFinite (s : State) (id : Nat) : Prop :=
  let d := (s.bank id).demod
  let f := s.demodFilter id
  s.DemodTuned id ∧ s.CascadeFinite s.stageDecimates d.dec (s.input .cplx) ∧
    (∀ z ∈ s.input .cplx ++ s.demodStream id, z.isFinite = true) ∧
    (s.FilterUsed id → f.bound = true ∧ f.Ok s.cfg ∧ f.AllFinite (s.coefs f) (s.demodStream id)) ∧
    (s.demodKind id = .fm → d.fmPrev.isFinite = true ∧ ∀ m < (s.demodStream id).length, (s.demodFiltered id m).isFinite = true)

/-- The AM detector's memory after `m` samples of its stream (R260). -/
def State.amAfter (s : State) (id : Nat) : Nat → Real64
  | 0 => (s.bank id).demod.amDc
  | m + 1 =>
    let z := s.demodFiltered id m
    (s.cfg.sqrt ((z.re.mul z.re).add (z.im.mul z.im))).add (s.cfg.amDcPole.mul (s.amAfter id m))

/-- The sample the FM detector compares sample `m` with (R261): the one before it, across commands. -/
def State.fmBefore (s : State) (id m : Nat) : Cplx :=
  if m = 0 then (s.bank id).demod.fmPrev else s.demodFiltered id (m - 1)

/-- The FM detector's phase of sample `m`, 0 on a zero product (R261, R449). -/
def State.fmPhaseAt (s : State) (id m : Nat) : Real64 :=
  let u := (s.demodFiltered id m).mul (s.fmBefore id m).conj
  if u.re.eqv .zero && u.im.eqv .zero then .zero
  else ((s.cfg.atan2 u.im u.re).mul (.ofNat (s.cfg.modeRec (s.bank id).demod.mode).filterRate)).mul s.cfg.fmGain

/-- The de-emphasis after `m` samples (R261): its last input and its last output. -/
def State.fmAfter (s : State) (id : Nat) : Nat → Real64 × Real64
  | 0 => ((s.bank id).demod.fmX1, (s.bank id).demod.fmY1)
  | m + 1 =>
    let v := s.fmPhaseAt id m
    let e := s.fmAfter id m
    (v, ((s.cfg.fmDeB0.mul v).add (s.cfg.fmDeB1.mul e.1)).sub (s.cfg.fmDeA1.mul e.2))

/-! ## The AGC, after so many samples (R303) -/

/-- The AGC of a bank as AGCRUN leaves it after the first `m` samples of its block, `alpha` recomputed at the start (R305). -/
def State.agcAfter (s : State) (x : Bool) (id m : Nat) : AGCState :=
  ((s.input (if x then .cplx else .real)).take m).foldl
    (fun g z => (agcStep s.cfg x s.cr.agcMaxOut s.cr.agcRelGain g z).g)
    { (s.bank id).agc with alpha := agcAlpha s.cfg s.cr.agcRelTime (s.bank id).agc.fs }

/-! ## The notch: candidates, hysteresis and kernel (R366 to R368) -/

/-- ANRUN reads no value that is NaN or infinite (R11; what counts as read: log 3). -/
def State.NotchFinite (s : State) : Prop := (s.runNotch (s.bank 0).notch (s.input .real)).bad = false

/-- The bin with the largest average among those that `P` admits, the lowest index on ties; none when there is none (R366). -/
def Loudest (avg : Nat → Real64) (P : Nat → Prop) : Option Nat → Prop
  | none => ∀ k, ¬P k
  | some k => P k ∧ ∀ j, P j → (avg k).lt (avg j) = false ∧ (j < k → (avg j).lt (avg k) = true)

/-- A slot after a hop whose kernel is built for the accepted targets (R363, R367). -/
def NotchSlot.tracked (p : Params) (cand : Option Nat) (x : NotchSlot) : NotchSlot :=
  let stable := cand.any fun q => decide (0 ≤ x.prev ∧ ((q : Int) - x.prev).natAbs ≤ p.anTol)
  let cnt := if stable then min (x.cnt + 1) p.anHmax else max (x.cnt - 1) p.anHmin
  let tgt :=
    if cnt ≤ p.anHmin then none
    else if p.anHacc ≤ cnt ∧ cand.isSome = true then cand
    else x.tgt
  { prev := (cand.map fun q => (q : Int)).getD (-1), cnt := cnt, tgt := tgt, builtFor := tgt }

/-- The kernel for two targets (R368): the unity response with the targets' bins and their mirrors zeroed, its inverse transform
recentred and windowed, padded and transformed. -/
def notchKernel (p : Params) (t0 t1 : Option Nat) : List Cplx :=
  let m := p.anNfft
  let zeroed := fun (t : Option Nat) (k : Nat) =>
    t.any fun q => (List.range (m / 2 + 1)).any fun j =>
      decide (((j : Int) - (q : Int)).natAbs ≤ p.anHalfwidth ∧ (k = j ∨ k = (m - j) % m))
  let h := p.ifft ((List.range m).map fun k => if zeroed t0 k || zeroed t1 k then .zero else ⟨.one, .zero⟩)
  let g := fun n =>
    (h.getD ((n + m - (p.anKg - 1) / 2) % m) .zero).re.mul
      (Real64.half.sub (Real64.half.mul (p.cos (((Real64.two.mul .pi).mul (.ofNat n)).div (.ofNat (p.anKg - 1))))))
  p.fft ((List.range m).map fun n => ⟨if n < p.anKg then g n else .zero, .zero⟩)

/-! ## PIPERX -/

/-- What PIPERX asks of its operands (R401 steps 1 to 4). -/
abbrev State.PipeOperandsOk (s : State) (id : Nat) : Prop :=
  id < s.cr.nrx.toNat ∧ s.cr.nrx.toNat ≤ s.nbanks ∧ 1 ≤ s.opN ∧ s.opN ≤ s.cfg.maxBlock ∧ s.opA + s.opN ≤ s.cfg.smSize ∧
    s.op2 + s.cfg.maxBlock ≤ s.cfg.smSize

/-- The notch stage runs (R407). -/
abbrev State.NotchRuns (s : State) (id : Nat) : Prop :=
  id = 0 ∧ s.cr.notchEn = true ∧ (s.latchedMode id).kind ≠ .digRaw

/-- Every component that a stage of PIPERX needs is in use (R401 step 5). -/
abbrev State.PipeBound (s : State) (id : Nat) : Prop :=
  (s.bank id).chain.valid = true ∧ (s.bank id).demod.valid = true ∧ (s.bank id).agc.valid = true ∧
    (s.cr.nbLevel ≠ 0 → (s.bank id).nb.valid = true) ∧ (s.NotchRuns id → (s.bank id).notch.valid = true)

/-- The tuning frequency lies within half the hardware rate (R401 step 6). -/
abbrev State.TuneOk (s : State) (id hz : Nat) : Prop :=
  (s.bankRegs id).tune.isFinite = true ∧ (s.bankRegs id).tune.abs.le ((Real64.ofNat hz).div .two) = true

/-- The registers AGCRUN checks (R303). -/
abbrev State.AgcRegistersOk (s : State) : Prop :=
  s.cr.agcMaxOut.isPos = true ∧ s.cr.agcRelGain.isPos = true ∧ s.cr.agcRelTime.isPos = true

/-- PIPERX reads no value that is NaN or infinite (R11; what counts as read: log 3). -/
def State.PipeFinite (s : State) (id : Nat) : Prop :=
  let r := s.latchedMode id
  let front := s.pipeFront id ((s.cfg.rateHz (s.bank id).chain.rateId).getD 0)
  (s.pipeBack id r front.x (s.pipeAudio id r front)).bad = false

/-- The mixer's phase after `m` samples (R403). -/
def mixAfter (inc mix : Real64) : Nat → Real64
  | 0 => mix
  | m + 1 =>
    let a := (mixAfter inc mix m).add inc
    let b := if Real64.pi.le a then a.sub (Real64.two.mul .pi) else a
    if b.lt Real64.pi.neg then b.add (Real64.two.mul .pi) else b

/-- The increment of the mixer's phase (R403). -/
def State.mixInc (s : State) (id hz : Nat) : Real64 :=
  ((Real64.two.mul .pi).mul (s.bankRegs id).tune).div (.ofNat hz)

/-- The input block after the tuning shift (R403). -/
def State.tunedBlock (s : State) (id hz : Nat) : List Cplx :=
  (List.range s.opN).map fun m =>
    let phase := mixAfter (s.mixInc id hz) (s.bank id).mix m
    (s.sm.read (s.opA + m)).mul ⟨s.cfg.cos phase, (s.cfg.sin phase).neg⟩

/-- How many frames after the key is up stay silent (R412): `hold` of them, less those already passed. -/
def KeyState.silent (hold : Nat) (k : KeyState) : Nat :=
  match k.st with
  | .rx => 0
  | .keyed => hold
  | .hold => hold - k.n
  | .fadeIn => 0

/-- The fade-in's position `q` frames after the key is up, once the silence is over (R412). -/
def KeyState.fadePos (hold : Nat) (k : KeyState) (q : Nat) : Nat :=
  (if k.st = .fadeIn then k.n else 0) + (q - k.silent hold)

/-- The gain of frame `q` of a block (R412). -/
def KeyState.gainAt (fade hold : Nat) (down : Bool) (k : KeyState) (q : Nat) : Real64 :=
  if down then .zero
  else if k.st = .rx then .one
  else if q < k.silent hold then .zero
  else if k.fadePos hold q < fade then (Real64.ofNat (k.fadePos hold q)).div (.ofNat fade)
  else .one

/-- The mute machine's state and counter after `len` frames of a block (R412). -/
def KeyState.muteAfter (hold fade : Nat) (down : Bool) (k : KeyState) (len : Nat) : KeyMode × Nat :=
  if len = 0 then (k.st, k.n)
  else if down then (.keyed, 0)
  else if k.st = .rx then (.rx, k.n)
  else if len ≤ k.silent hold then (.hold, (if k.st = .hold then k.n else 0) + len)
  else if k.fadePos hold len < fade then (.fadeIn, k.fadePos hold len)
  else (.rx, 0)

/-- The envelope's position after `len` frames of a block (R413). -/
def KeyState.levelAfter (fade : Nat) (down : Bool) (k : KeyState) (len : Nat) : Nat :=
  if down then (if k.lvl < fade then min fade (k.lvl + len) else k.lvl) else k.lvl - len

/-- The sidetone's phase after `q` sounding frames (R413). -/
def toneAfter (p : Params) (freq tone : Real64) : Nat → Real64
  | 0 => tone
  | q + 1 =>
    let t := (toneAfter p freq tone q).add (((Real64.two.mul .pi).mul freq).div (.ofNat (p.canon * p.outFactor)))
    if (Real64.two.mul .pi).le t then t.sub (Real64.two.mul .pi) else t

/-- The sidetone's sample of frame `q` of a block (R413). -/
def KeyState.toneAt (p : Params) (fade : Nat) (freq : Real64) (down toneSel : Bool) (k : KeyState) (q : Nat) : Real64 :=
  let lvl := k.levelAfter fade down (q + 1)
  if lvl = 0 ∨ toneSel = false then .zero
  else (p.sidetoneLevel.mul ((Real64.ofNat lvl).div (.ofNat fade))).mul (p.sin (toneAfter p freq k.tone q))

/-- The sidetone's phase after `len` frames of a block: 0 once the envelope is down (R413). -/
def KeyState.phaseAfter (p : Params) (fade : Nat) (freq : Real64) (down : Bool) (k : KeyState) (len : Nat) : Real64 :=
  if len = 0 then k.tone else if k.levelAfter fade down len = 0 then .zero else toneAfter p freq k.tone len

/-- Commands one after another, each on the buffer and the count the one before it left (R402); none when one does not complete. -/
def State.inSequence (s : State) : List Instr → Option State
  | [] => some s
  | i :: rest =>
    match exec i s with
    | .next t => if t.cr.status.code = 0 then State.inSequence { t with a1 := t.r0 } rest else none
    | _ => none

end Sys2Proof.Machine
end

