-- ==== Sys2Proof/Certificates/Slice0/Obligations.lean ====
section
/-! DEFINITION. The statements about the machine, for the provers. Each says which rule of spec/ it formalises. -/

open Sys2Proof Sys2Proof.Machine

/-! ## Words (spec/30_encoding.md) -/

/-- R120, R121, R130: no bit of a command word is dropped. -/
def Obligations.DecodeOfEncode : Prop :=
  ∀ i : Instr, i.wellFormed = true → decode (encode i) = some i

/-- R120, R121, R130, R140: a word is a row's command iff `(w & mask) == match`; it is illegal exactly when it is no row's command;
and the word of the command it decodes to is the word itself. -/
def Obligations.DecodeFollowsTheMap : Prop :=
  ∀ w : Word32,
    (∀ r ∈ opcodeRows, r.matches w = true ↔ ∃ i, decode w = some i ∧ mnemonicOf i = r.mnemonic) ∧
    (decode w = none ↔ ∀ r ∈ opcodeRows, r.matches w = false) ∧
    ∀ i, decode w = some i → encode i = w ∧ i.wellFormed = true

/-- A few words of spec/95_test_vectors.md section 3.1. -/
def Obligations.DecodedWords : Prop :=
  decode 0x00001234 = some (.nop 0x1234) ∧ decode 0x10010005 = some (.finit true 5) ∧
    decode 0x13000003 = some (.fdecim 3) ∧ decode 0x20010002 = some (.hbinit true 2) ∧
    decode 0x30010001 = some (.chsel true 1) ∧ decode 0x41000000 = some (.demod 0) ∧
    decode 0x51010000 = some (.agcrun true 0) ∧ decode 0x61000001 = some (.nbrun 1) ∧
    decode 0x71000000 = some (.anrun 0) ∧ decode 0x80000000 = some (.piperx 0) ∧
    decode 0xF0000001 = some (.bkfree 1) ∧ decode 0x00010000 = none ∧ decode 0x12010003 = none ∧
    decode 0x7F000000 = none

/-! ## The step (spec/10_state.md R26, spec/20_memory.md R97, R99) -/

/-- R26, R99, R121, R140, R441, R444: a step whose host action issues a word is the command the word decodes to; an illegal word ends
with `E_BADOP`, which records the word and changes nothing else. -/
def Obligations.StepRunsTheCommand : Prop :=
  ∀ (s : State) (w : Word32) (rest : List HostAction), s.host = .issueCmd w :: rest → s.configOk = true →
    (∀ i, decode w = some i → step s = exec i { s with host := rest }) ∧
    (decode w = none → ∃ t, step s = .next t ∧ State.Raised { s with host := rest } t 9 (w.setWidth 64))

/-- R26, R40, R99, R251, R455, R460: an engine nobody acts on keeps all state; what the host's actions on registers change: an action
changes the register it names and no other, and no bank. -/
def Obligations.RegisterActions : Prop :=
  ∀ (s : State) (rest : List HostAction) (w : Word64),
    (s.host = [] → step s = .next s) ∧
    (∀ i : Fin 4, s.host = .writeA i w :: rest →
      ∃ t, step s = .next t ∧ t.readA i = w ∧ (∀ j, j ≠ i → t.readA j = s.readA j) ∧
        t = { s with a0 := t.a0, a1 := t.a1, a2 := t.a2, a3 := t.a3, host := rest }) ∧
    (∀ i : Fin 2, s.host = .readR i :: rest →
      step s = .next { s with host := rest, reply := .word (if i = 0 then s.r0 else s.r1) }) ∧
    (∀ n : Nat, s.host = .readCR n :: rest →
      step s = .next { s with host := rest, reply := .word (s.readCR n) }) ∧
    (∀ n : Nat, s.host = .writeCR n w :: rest →
      ∃ t, step s = .next t ∧ t = { s with host := rest }.writeCR n w ∧
        t = { s with cr := t.cr, chans := t.chans, host := rest } ∧ (∀ b, t.bank b = s.bank b) ∧
        ∀ m, m ≠ n → t.readCR m = s.readCR m)

/-- R92: `LoadTable` sets one slot, and does nothing with other arguments; no other step but `Reset` (R78) changes a table. -/
def Obligations.LoadTableSetsOneSlot : Prop :=
  (∀ (s u : State) (a : HostAction) (rest : List HostAction), s.host = a :: rest → (∀ t vals, a ≠ .loadTable t vals) →
    a ≠ .reset → step s = .next u → u.ct = s.ct) ∧
  ∀ (s : State) (rest : List HostAction) (t : Nat) (vals : List Real64),
    s.host = .loadTable t vals :: rest →
      ∃ u, step s = .next u ∧ u = { s with ct := u.ct, host := rest } ∧ u.ntab = s.ntab ∧
        (∀ k, k ≠ t → u.table k = s.table k) ∧
        (t < s.ntab ∧ 1 ≤ vals.length ∧ vals.length ≤ s.cfg.maxTaps → u.table t = some ⟨vals⟩) ∧
        (¬(t < s.ntab ∧ 1 ≤ vals.length ∧ vals.length ≤ s.cfg.maxTaps) → u.ct = s.ct)

/-- R37, R99: `WriteSM` writes its cells and no other; `ReadSM` hands out cells and changes nothing. -/
def Obligations.MemoryActions : Prop :=
  ∀ (s : State) (rest : List HostAction) (a : Nat), s.sm.wf = true →
    (∀ vals : List Cplx, s.host = .writeSM a vals :: rest → a + vals.length ≤ s.cfg.smSize →
      ∃ t, step s = .next t ∧ t = { s with sm := t.sm, host := rest } ∧
        s.KeepsCellsOutside t a vals.length ∧ ∀ k < vals.length, t.sm.read (a + k) = vals.getD k .zero) ∧
    (∀ n : Nat, s.host = .readSM a n :: rest → a + n ≤ s.cfg.smSize →
      step s = .next { s with host := rest, reply := .cells ((List.range n).map fun k => s.sm.read (a + k)) })

/-! ## Control registers (spec/10_state.md R40 to R58) -/

/-- R40 to R56, U12, U13: what each register number reads, `STATUS` and telemetry included, and which field a host write to a
configuration register sets, and nothing else; so it reads back what the host wrote, in the bits the register has, and every other
register keeps its value. A host write to `STATUS`, a telemetry register or a number that names no register changes nothing; such a
number reads 0. -/
def Obligations.ControlRegisterAccess : Prop :=
  ∀ (s : State) (w : Word64), s.nbanks ≤ 32 →
    (s.readCR 0x000 = BitVec.ofNat 64 (s.cr.status.code.toNat + if s.cr.status.trunc then 256 else 0) ∧
      s.readCR 0x001 = s.cr.rateIn.setWidth 64 ∧ s.readCR 0x002 = s.cr.nrx.setWidth 64 ∧
      s.readCR 0x003 = s.cr.nbLevel.setWidth 64 ∧ s.readCR 0x004 = (if s.cr.notchEn then 1 else 0) ∧
      s.readCR 0x005 = s.cr.squelchThr.bits ∧ s.readCR 0x006 = s.cr.agcMaxOut.bits ∧
      s.readCR 0x007 = s.cr.agcRelTime.bits ∧ s.readCR 0x008 = s.cr.agcRelGain.bits ∧
      s.readCR 0x009 = s.cr.ctcssFreq.bits ∧ s.readCR 0x00A = s.cr.micPreemph.bits ∧ s.readCR 0x00B = s.cr.micClip.bits ∧
      s.readCR 0x00C = s.cr.micVox.bits ∧
      s.readCR 0x00D = (if s.cr.keyDown then 1 else 0) + (if s.cr.keyTone then 2 else 0) ∧
      s.readCR 0x00E = s.cr.holdDelay.bits ∧ s.readCR 0x00F = s.cr.sidetoneFreq.bits) ∧
    (s.readCR 0x300 = s.cr.ovrCnt.setWidth 64 ∧ s.readCR 0x301 = s.cr.smeter.bits ∧ s.readCR 0x302 = s.cr.audioRms.bits ∧
      s.readCR 0x303 = s.cr.agcGain.bits ∧ s.readCR 0x304 = s.cr.notchBin0.setWidth 64 ∧
      s.readCR 0x305 = s.cr.notchBin1.setWidth 64 ∧ s.readCR 0x306 = s.cr.errCnt.setWidth 64 ∧
      s.readCR 0x307 = s.cr.xrunCnt.setWidth 64 ∧ ∀ b < s.nbanks, s.readCR (0x310 + b) = (s.chan b).achRate.bits) ∧
    (s.writeCR 0x001 w = { s with cr := { s.cr with rateIn := w.setWidth 8 } } ∧
      s.writeCR 0x002 w = { s with cr := { s.cr with nrx := w.setWidth 8 } } ∧
      s.writeCR 0x003 w = { s with cr := { s.cr with nbLevel := w.setWidth 2 } } ∧
      s.writeCR 0x004 w = { s with cr := { s.cr with notchEn := w.getLsbD 0 } } ∧
      s.writeCR 0x005 w = { s with cr := { s.cr with squelchThr := ⟨w⟩ } } ∧
      s.writeCR 0x006 w = { s with cr := { s.cr with agcMaxOut := ⟨w⟩ } } ∧
      s.writeCR 0x007 w = { s with cr := { s.cr with agcRelTime := ⟨w⟩ } } ∧
      s.writeCR 0x008 w = { s with cr := { s.cr with agcRelGain := ⟨w⟩ } } ∧
      s.writeCR 0x009 w = { s with cr := { s.cr with ctcssFreq := ⟨w⟩ } } ∧
      s.writeCR 0x00A w = { s with cr := { s.cr with micPreemph := ⟨w⟩ } } ∧
      s.writeCR 0x00B w = { s with cr := { s.cr with micClip := ⟨w⟩ } } ∧
      s.writeCR 0x00C w = { s with cr := { s.cr with micVox := ⟨w⟩ } } ∧
      s.writeCR 0x00D w = { s with cr := { s.cr with keyDown := w.getLsbD 0, keyTone := w.getLsbD 1 } } ∧
      s.writeCR 0x00E w = { s with cr := { s.cr with holdDelay := ⟨w⟩ } } ∧
      s.writeCR 0x00F w = { s with cr := { s.cr with sidetoneFreq := ⟨w⟩ } }) ∧
    (∀ b < s.nbanks,
      let r := s.bankRegs b
      let sets := fun (k : Nat) (q : BankRegs) =>
        s.writeCR (0x100 + 8 * b + k) w = { s with chans := s.chans.set b { s.chan b with cr := q } }
      (s.readCR (0x100 + 8 * b) = r.mode.setWidth 64 ∧ s.readCR (0x100 + 8 * b + 1) = r.tune.bits ∧
        s.readCR (0x100 + 8 * b + 2) = r.rxfTab.setWidth 64 ∧ s.readCR (0x100 + 8 * b + 3) = r.rxfBw.bits ∧
        s.readCR (0x100 + 8 * b + 4) = r.rxfFreq.bits) ∧
      sets 0 { r with mode := w.setWidth 8 } ∧ sets 1 { r with tune := ⟨w⟩ } ∧ sets 2 { r with rxfTab := w.setWidth 16 } ∧
        sets 3 { r with rxfBw := ⟨w⟩ } ∧ sets 4 { r with rxfFreq := ⟨w⟩ }) ∧
    (∀ n mask, (n, mask) ∈ ([(0x001, 0xFF), (0x002, 0xFF), (0x003, 3), (0x004, 1), (0x00D, 3)] : List (Nat × Word64)) →
      (s.writeCR n w).readCR n = w &&& mask) ∧
    (∀ n ∈ [0x005, 0x006, 0x007, 0x008, 0x009, 0x00A, 0x00B, 0x00C, 0x00E, 0x00F], (s.writeCR n w).readCR n = w) ∧
    (∀ b < s.nbanks,
      (s.writeCR (0x100 + 8 * b) w).readCR (0x100 + 8 * b) = w &&& 0xFF ∧
      (s.writeCR (0x102 + 8 * b) w).readCR (0x102 + 8 * b) = w &&& 0xFFFF ∧
      ∀ k ∈ [1, 3, 4], (s.writeCR (0x100 + 8 * b + k) w).readCR (0x100 + 8 * b + k) = w) ∧
    (∀ n m, n ≠ m → (s.writeCR n w).readCR m = s.readCR m) ∧
    ∀ n,
      (n = 0 ∨ 0x10 ≤ n ∧ n < 0x100 ∨ 0x100 + 8 * s.nbanks ≤ n ∨
          (∃ b < s.nbanks, ∃ k, 5 ≤ k ∧ k < 8 ∧ n = 0x100 + 8 * b + k) →
        s.writeCR n w = s) ∧
      (0x10 ≤ n ∧ n < 0x100 ∨ 0x100 + 8 * s.nbanks ≤ n ∧ n < 0x300 ∨ 0x308 ≤ n ∧ n < 0x310 ∨ 0x310 + s.nbanks ≤ n ∨
          (∃ b < s.nbanks, ∃ k, 5 ≤ k ∧ k < 8 ∧ n = 0x100 + 8 * b + k) →
        s.readCR n = 0)

/-! ## Reset (spec/10_state.md R78) -/

/-- R33, R35, R41, R43, R56, R61 to R70, R78, R99: what the spec fixes of the state after reset, where the engine waits, and that the
host action `Reset` gives it in every state. (`A`, `SM`, and of a bank the AGC's `fm`, the codec's and the transmit adapter's state
and the notch beside `valid` are not fixed by the spec, logs 7, 8, 18, 19, 27, and not stated here.) -/
def Obligations.ResetValues : Prop :=
  State.reset.r0 = 0 ∧ State.reset.r1 = 0 ∧ State.reset.readCR 0x000 = 0 ∧ State.reset.readCR 0x002 = 1 ∧
    State.reset.readCR 0x304 = 0xFFFFFFFF ∧ State.reset.readCR 0x305 = 0xFFFFFFFF ∧
    (∀ n < 0x400, n ≠ 0x002 → n ≠ 0x304 → n ≠ 0x305 → State.reset.readCR n = 0) ∧
    (∀ t < State.reset.ntab, State.reset.table t = none) ∧
    (∀ i < State.reset.nfilt, State.reset.filter i =
      { bound := false, variant := .cplx, tab := 0, taps := 0, tuned := none, hist := [], cur := 0, phase := 0, scap := 0 }) ∧
    (∀ i < State.reset.nhb, State.reset.half i =
      { bound := false, variant := .cplx, win := List.replicate 45 .zero, toggle := false }) ∧
    (∀ b < State.reset.nbanks,
      (State.reset.bank b).chain = { valid := false, rateId := 0, wide := false, stages := [], achRate := .zero } ∧
      (State.reset.bank b).demod =
        { valid := false, mode := 0, inRate := .zero, dec := [], rxf := State.reset.filter 0, rxfTab := 0, rxfFreq := .zero,
          rxfLower := false, amDc := .zero, fmPrev := .zero, fmX1 := .zero, fmY1 := .zero, int := [],
          dv := (State.reset.bank b).demod.dv } ∧
      (State.reset.bank b).nb =
        { valid := false, w := 0, h := 0, bufS := [], bufM := [], sum := .zero, idx := 0, st := .normal, ramp := 0,
          seen := 0 } ∧
      (State.reset.bank b).agc =
        { valid := false, len := 0, buf := [], indexRead := 0, indexStart := 0, gain := .zero, targetGain := .zero,
          delta := .zero, maxMag := .zero, clipping := false, fs := .zero, alpha := .zero,
          fm := (State.reset.bank b).agc.fm } ∧
      (State.reset.bank b).tx.valid = false ∧ (State.reset.bank b).notch.valid = false ∧
      (State.reset.bank b).frac = { h0 := .zero, h1 := .zero, h2 := .zero, h3 := .zero, mu := .zero } ∧
      (State.reset.bank b).mix = .zero ∧ (State.reset.bank b).key = { st := .rx, n := 0, lvl := 0, tone := .zero }) ∧
    step State.reset = .next State.reset ∧
    ∀ (s : State) (rest : List HostAction), s.host = .reset :: rest →
      ∃ t, step s = .next t ∧ t.r0 = 0 ∧ t.r1 = 0 ∧ t.cr = State.reset.cr ∧ t.ct = List.replicate s.ntab none ∧
        t.fi = List.replicate s.nfilt (State.reset.filter 0) ∧ t.hb = List.replicate s.nhb (State.reset.half 0) ∧
        t.chans = List.replicate s.nbanks (State.reset.chan 0)

/-! ## Whole-machine rules -/

/-- The reset state meets the invariants of `StepKeepsMemory` and `StepKeepsComponents`. -/
def Obligations.ResetMeetsInvariants : Prop := State.reset.MemoryOk ∧ State.reset.ComponentsOk

/-- R37, R86: no step lists a cell that does not exist, nor breaks the canonical form of memory. -/
def Obligations.StepKeepsMemory : Prop :=
  ∀ s t : State, s.MemoryOk → step s = .next t → t.MemoryOk

/-- R30 to R36, R61 to R68, R364: no step breaks what these rules say of tables, instances and banks. -/
def Obligations.StepKeepsComponents : Prop :=
  ∀ s t : State, s.ComponentsOk → step s = .next t → t.ComponentsOk

/-- R441, R443, R444, R445, R446, R448: every command ends, and either completes with code 0 or leaves exactly an error's record, with
a code between 1 and 10. (That `E_ALLOC` also takes an answer of the oracle is the model's choice, log 12.) -/
def Obligations.EveryCommandEnds : Prop :=
  ∀ (i : Instr) (s : State), ∃ t, exec i s = .next t ∧
    ((t.cr.status.code = 0 ∧ t.cr.errCnt = s.cr.errCnt) ∨
      ∃ (code : BitVec 8) (info : Word64),
        1 ≤ code.toNat ∧ code.toNat ≤ 10 ∧
        (State.Raised s t code info ∨ (code = 2 ∧ info = 0 ∧ State.Raised s.consulted t code info)))

/-- R21, R23, R40, R92: no command writes an argument register, a table or a configuration register. -/
def Obligations.CommandsKeepTheHostsState : Prop :=
  ∀ (i : Instr) (s t : State), exec i s = .next t →
    t.a0 = s.a0 ∧ t.a1 = s.a1 ∧ t.a2 = s.a2 ∧ t.a3 = s.a3 ∧ t.ct = s.ct ∧ s.cr.KeepsConfiguration t.cr ∧
      ∀ b, t.bankRegs b = s.bankRegs b

/-- R29: a command that names a bank changes no other bank and no instance; one that names an instance changes no other instance
and no bank; `NOP` changes none of them. -/
def Obligations.CommandsKeepOthersState : Prop :=
  ∀ (i : Instr) (s t : State), exec i s = .next t →
    (idKind i ≠ .filter → t.fi = s.fi) ∧ (idKind i ≠ .half → t.hb = s.hb) ∧ (idKind i ≠ .bank → t.chans = s.chans) ∧
      (∀ j, j ≠ i.id → t.filter j = s.filter j ∧ t.half j = s.half j ∧ t.chan j = s.chan j)

/-- R86, R87: a command changes no cell but the `R0` cells from its base (from `A2` for PIPERX); a command without sample output,
and one that ends with an error, changes none. -/
def Obligations.CommandsStoreInTheirExtent : Prop :=
  ∀ (i : Instr) (s t : State), s.sm.wf = true → s.configOk = true → exec i s = .next t →
    s.KeepsCellsOutside t (storedAt i s t).1 (storedAt i s t).2 ∧
      ((storedAt i s t).1 + (storedAt i s t).2 ≤ s.cfg.smSize ∨ t.r0 = 0)

/-- R88: a command depends on memory only through the `n` cells from its base, whatever they hold: two states that differ in other
cells only end alike, in the state and in the cells it stores. -/
def Obligations.CommandsReadOnlyTheirBlock : Prop :=
  ∀ (i : Instr) (s t : State) (m : Mem),
    (∀ k < s.opN, m.read (s.opA + k) = s.sm.read (s.opA + k)) → exec i s = .next t →
      ∃ u, exec i { s with sm := m } = .next u ∧ u = { t with sm := u.sm } ∧
        (s.sm.wf = true → m.wf = true → s.cfg.maxBlock < 2 ^ 64 →
          ∀ k < (storedAt i s t).2, u.sm.read ((storedAt i s t).1 + k) = t.sm.read ((storedAt i s t).1 + k))

/-- R33, R61 to R68, R162, R204, R224, R254, R273, R301, R331, R361: only the initialiser of a thing puts it in use. -/
def Obligations.OnlyInitialisersBind : Prop :=
  ∀ (i : Instr) (s t : State) (j : Nat), exec i s = .next t →
    ((∀ v, i ≠ .finit v j) → (t.filter j).bound = (s.filter j).bound) ∧
    ((∀ v, i ≠ .hbinit v j) → (t.half j).bound = (s.half j).bound) ∧
    (i ≠ .bkfree j →
      ((∀ w, i ≠ .chsel w j) → (t.bank j).chain.valid = (s.bank j).chain.valid) ∧
      (i ≠ .dminit j → (t.bank j).demod.valid = (s.bank j).demod.valid) ∧
      (i ≠ .modinit j → (t.bank j).tx.valid = (s.bank j).tx.valid) ∧
      ((∀ f, i ≠ .agcinit f j) → (t.bank j).agc.valid = (s.bank j).agc.valid) ∧
      (i ≠ .nbinit j → (t.bank j).nb.valid = (s.bank j).nb.valid) ∧
      (i ≠ .aninit j → (t.bank j).notch.valid = (s.bank j).notch.valid))

/-! ## Errors and their order (spec/60_exceptions.md R450) -/

/-- R122: what the `ID` of a command names goes by its opcode; an `ID` out of range raises `E_PARAM` before anything else; NOP ignores
its `ID`. -/
def Obligations.IdOutOfRange : Prop :=
  (∀ i : Instr,
    (idKind i = .filter ↔ 0x10 ≤ i.opcode ∧ i.opcode ≤ 0x15) ∧ (idKind i = .half ↔ 0x20 ≤ i.opcode ∧ i.opcode ≤ 0x22) ∧
      (idKind i = .bank ↔ 0x30 ≤ i.opcode ∧ i.opcode ≤ 0x80 ∨ i.opcode = 0xF0) ∧ (idKind i = .ignored ↔ i.opcode = 0)) ∧
  (∀ (s : State) (a b : Nat), exec (.nop a) s = exec (.nop b) s) ∧
  ∀ (i : Instr) (s : State) (n : Nat), s.idCount (idKind i) = some n → n ≤ i.id →
    ∃ t, exec i s = .next t ∧ State.Raised s t 5 0

/-- R86, R125, R401, R441, R450: after the `ID` range, a count above `MAXBLOCK` raises `E_SIZE`, which records the count; then, with
its other operands in range, a command whose extent passes the end of memory raises `E_BOUNDS`, which records the base, before it
matters what the command names. The extent is the largest number of cells the command may read or write. -/
def Obligations.CountAndBoundsErrors : Prop :=
  ∀ (s : State) (id : Nat) (x : Bool),
    (∀ i : Instr, inPlace i = true → s.idInRange i → s.cfg.maxBlock < s.opN → s.Raises i 4 s.a1) ∧
    (id < s.cr.nrx.toNat → s.cr.nrx.toNat ≤ s.nbanks → s.cfg.maxBlock < s.opN → s.Raises (.piperx id) 4 s.a1) ∧
    (s.opN ≤ s.cfg.maxBlock →
      let past := fun e => s.cfg.smSize < s.opA + e
      let up := fun m => max s.opN (min m s.cfg.maxBlock)
      let ratioOk := fun r => 1 ≤ r ∧ r ≤ s.cfg.maxTaps
      (id < s.nfilt →
        (past s.opN → s.Raises (.fapply id) 7 s.a0) ∧
        (ratioOk s.op2 → past s.opN → s.Raises (.fdecim id) 7 s.a0) ∧
        (ratioOk s.op2 → past (up (s.opN * s.op2)) → s.Raises (.finterp id) 7 s.a0) ∧
        (ratioOk s.op2 → ratioOk s.op3 → past (up ((s.opN * s.op2 + (s.op3 - 1)) / s.op3 + 1)) →
          s.Raises (.fresamp id) 7 s.a0)) ∧
      (id < s.nhb →
        (past s.opN → s.Raises (.hbdec2 id) 7 s.a0) ∧ (past (up (2 * s.opN)) → s.Raises (.hbint2 id) 7 s.a0)) ∧
      (id < s.nbanks →
        (past s.opN →
          s.Raises (.chrun id) 7 s.a0 ∧ s.Raises (.demod id) 7 s.a0 ∧ s.Raises (.agcrun x id) 7 s.a0 ∧
            s.Raises (.nbrun id) 7 s.a0) ∧
        (s.opStep.isFinite = true → past (if s.opStep.lt .one then s.cfg.maxBlock else s.opN) → s.Raises (.frac id) 7 s.a0) ∧
        (past (up (s.opN * stagesRatio (s.bank id).demod.int)) → s.Raises (.restore id) 7 s.a0) ∧
        (past s.cfg.maxBlock → s.Raises (.mod id) 7 s.a0) ∧
        (past (min (s.opN + s.cfg.anB - 1) s.cfg.maxBlock) → s.Raises (.anrun id) 7 s.a0)) ∧
      (id < s.cr.nrx.toNat → s.cr.nrx.toNat ≤ s.nbanks → 1 ≤ s.opN →
        (past s.opN → s.Raises (.piperx id) 7 s.a0) ∧
        (¬past s.opN → s.cfg.smSize < s.op2 + s.cfg.maxBlock → s.Raises (.piperx id) 7 s.a2)))

/-- R67, R164, R401, R441, R450: a command on something never initialised raises `E_UNBOUND`, which records the `ID`. -/
def Obligations.UnboundRuns : Prop :=
  ∀ (s : State) (id : Nat) (x : Bool),
    let info := BitVec.ofNat 64 id
    let ratioOk := fun r => 1 ≤ r ∧ r ≤ s.cfg.maxTaps
    (id < s.nfilt → (s.filter id).bound = false → s.opReal.isFinite = true → s.Raises (.ftune x id) 6 info) ∧
    (s.BufferOk s.cfg.maxBlock →
      (id < s.nfilt → (s.filter id).bound = false →
        s.Raises (.fapply id) 6 info ∧ (ratioOk s.op2 → s.Raises (.fdecim id) 6 info ∧ s.Raises (.finterp id) 6 info) ∧
          (ratioOk s.op2 → ratioOk s.op3 → s.Raises (.fresamp id) 6 info)) ∧
      (id < s.nhb → (s.half id).bound = false → s.Raises (.hbdec2 id) 6 info ∧ s.Raises (.hbint2 id) 6 info) ∧
      (id < s.nbanks →
        ((s.bank id).chain.valid = false → s.Raises (.chrun id) 6 info) ∧
        ((s.bank id).demod.valid = false → s.Raises (.demod id) 6 info ∧ s.Raises (.restore id) 6 info) ∧
        ((s.bank id).tx.valid = false → s.Raises (.mod id) 6 info) ∧
        ((s.bank id).agc.valid = false → s.Raises (.agcrun x id) 6 info) ∧
        ((s.bank id).nb.valid = false → s.cr.nbLevel ≠ 0 → s.Raises (.nbrun id) 6 info) ∧
        ((s.bank id).notch.valid = false → id = 0 → s.Raises (.anrun id) 6 info))) ∧
    (s.PipeOperandsOk id → ¬s.PipeBound id → s.Raises (.piperx id) 6 info)

/-- R93, R125, R162, R166, R171, R441: a Filter Engine command whose operands are out of range raises `E_PARAM`: a ratio that is 0 or
above `MAXTAPS`, a frequency that is not finite, a table id or tap count out of range. FINIT on an empty slot raises `E_TABLE`, on a
table of another length `E_PARAM`. A filtering command whose table slot is empty, or holds a table of another length, raises `E_TABLE`,
which records the table id; FDECIM with a carried phase not below its ratio, and FTUNE on the real variant, raise `E_PARAM`. That an
operand is checked by itself before the bounds and before the instance is bound (R450; the own lists of R165, R170, R172, R174 put
these checks after R164's) is the model's reading, log 14. -/
def Obligations.FilterStateErrors : Prop :=
  ∀ (s : State) (id : Nat) (l : Bool), id < s.nfilt →
    let f := s.filter id
    let ratioOk := fun r => 1 ≤ r ∧ r ≤ s.cfg.maxTaps
    (s.opReal.isFinite = false → s.Raises (.ftune l id) 5 0) ∧
    (s.ntab ≤ s.opA ∨ s.opN = 0 ∨ s.cfg.maxTaps < s.opN → s.Raises (.finit l id) 5 0) ∧
    (s.opA < s.ntab → ratioOk s.opN →
      (s.table s.opA = none → s.Raises (.finit l id) 10 (BitVec.ofNat 64 s.opA)) ∧
      (∀ t, s.table s.opA = some t → t.val.length ≠ s.opN → s.Raises (.finit l id) 5 0)) ∧
    (s.opN ≤ s.cfg.maxBlock →
      (¬ratioOk s.op2 → s.Raises (.fdecim id) 5 0 ∧ s.Raises (.finterp id) 5 0) ∧
      (¬ratioOk s.op2 ∨ ¬ratioOk s.op3 → s.Raises (.fresamp id) 5 0)) ∧
    (f.bound = true → s.Unresolved f →
      (s.BufferOk s.cfg.maxBlock →
        s.Raises (.fapply id) 10 (BitVec.ofNat 64 f.tab) ∧
        (ratioOk s.op2 →
          s.Raises (.fdecim id) 10 (BitVec.ofNat 64 f.tab) ∧ s.Raises (.finterp id) 10 (BitVec.ofNat 64 f.tab)) ∧
        (ratioOk s.op2 → ratioOk s.op3 → s.Raises (.fresamp id) 10 (BitVec.ofNat 64 f.tab))) ∧
      (s.opReal.isFinite = true → s.Raises (.ftune l id) 10 (BitVec.ofNat 64 f.tab))) ∧
    (f.bound = true → (∃ t, s.table f.tab = some t ∧ t.val.length = f.taps) →
      (s.BufferOk s.cfg.maxBlock → ratioOk s.op2 → s.op2 ≤ f.phase → s.Raises (.fdecim id) 5 0) ∧
      (s.opReal.isFinite = true → f.variant = .real → s.Raises (.ftune l id) 5 0))

/-- R93, R224, R228, R254, R257, R270, R401: the tables of a bank's stages. A builder whose descriptor names an empty slot, a run whose
stage's table does not resolve, and a filter refresh on an empty slot or on a table that changed its length raise `E_TABLE`, which
records the first such table's id; a refresh with a table id or a frequency out of range raises `E_PARAM`; PIPERX raises what its
stages raise, in their order, after the checks of its registers. -/
def Obligations.BankTableErrors : Prop :=
  ∀ (s : State) (id t : Nat) (w : Bool), id < s.nbanks →
    let c := s.bankRegs id
    let k := s.bank id
    let d := k.demod
    let tab := c.rxfTab.toNat
    let rec' := s.cfg.modeRec c.mode.toNat
    let refreshFails := fun i : Instr =>
      (d.Stale c → s.ntab ≤ tab ∨ c.rxfFreq.isFinite = false → s.Raises i 5 0) ∧
        (d.Stale c → tab < s.ntab → c.rxfFreq.isFinite = true → s.table tab = none → s.Raises i 10 (BitVec.ofNat 64 tab)) ∧
        (¬d.Stale c → (∀ b, s.table d.rxfTab = some b → b.val.length ≠ d.rxf.taps) →
          s.Raises i 10 (BitVec.ofNat 64 d.rxfTab))
    (∀ hz before r after, s.cfg.rateHz s.cr.rateIn.toNat = some hz →
      s.cfg.cascade s.cr.rateIn.toNat w = some (before ++ .fir r t :: after) → s.SlotsFilled before → s.table t = none →
        s.Raises (.chsel w id) 10 (BitVec.ofNat 64 t)) ∧
    (s.opReal.isPos = true → c.mode.toNat ≤ 12 → rec'.kind ≠ .noSemantics → (rec'.kind = .dv → s.cfg.codec = true) →
      (rec'.decList s.opReal = none ∨ s.cfg.intList rec' = none ∨ s.ntab ≤ tab → s.Raises (.dminit id) 5 0) ∧
      ∀ ds us, rec'.decList s.opReal = some ds → s.cfg.intList rec' = some us → tab < s.ntab →
        (s.table tab = none → s.Raises (.dminit id) 10 (BitVec.ofNat 64 tab)) ∧
        ((s.table tab).isSome = true →
          (∀ before r after, ds ++ us = before ++ .fir r t :: after → s.SlotsFilled before → s.table t = none →
            s.Raises (.dminit id) 10 (BitVec.ofNat 64 t)) ∧
          (s.SlotsFilled (ds ++ us) → c.rxfFreq.isFinite = false → s.Raises (.dminit id) 5 0))) ∧
    (s.BufferOk s.cfg.maxBlock →
      (k.chain.valid = true → s.FirstUnresolved k.chain.stages t → s.Raises (.chrun id) 10 (BitVec.ofNat 64 t)) ∧
      (d.valid = true → s.FirstUnresolved d.int t → s.Raises (.restore id) 10 (BitVec.ofNat 64 t)) ∧
      (d.valid = true → (s.cfg.modeRec d.mode).kind ≠ .noSemantics →
        refreshFails (.demod id) ∧
          (s.RefreshReady d c → s.FirstUnresolved d.dec t → s.Raises (.demod id) 10 (BitVec.ofNat 64 t)))) ∧
    ∀ hz, s.PipeOperandsOk id → s.PipeBound id → s.cfg.rateHz k.chain.rateId = some hz →
      (¬s.TuneOk id hz ∨ ¬s.AgcRegistersOk → s.Raises (.piperx id) 5 0) ∧
      (s.TuneOk id hz → s.AgcRegistersOk →
        (s.FirstUnresolved k.chain.stages t → s.Raises (.piperx id) 10 (BitVec.ofNat 64 t)) ∧
        (s.StagesReady k.chain.stages →
          let step := k.chain.achRate.div d.inRate
          (k.chain.achRate.eqv d.inRate = false → step.isPos = false → s.Raises (.piperx id) 5 0) ∧
          (k.chain.achRate.eqv d.inRate = true ∨ step.isPos = true → (s.cfg.modeRec d.mode).kind ≠ .noSemantics →
            refreshFails (.piperx id) ∧
            (s.RefreshReady d c →
              (s.FirstUnresolved d.dec t → s.Raises (.piperx id) 10 (BitVec.ofNat 64 t)) ∧
              (s.StagesReady d.dec → s.FirstUnresolved d.int t → s.Raises (.piperx id) 10 (BitVec.ofNat 64 t))))))

/-- R125, R222, R226, R232, R254, R267, R268, R273, R301, R303, R331, R361, R364, R401: what the commands of a bank refuse of their
operands and registers: a rate without a cascade or unmapped, a mode that does not exist, one without semantics, digital voice without
a codec, transmit without a `TxBundle`, a rate or step that is not finite and positive, an AGC register that is not, a delay line
without a length in range, a notch on another bank than 0, a bank not below `NRX`, no samples. That PIPERX checks `NRX` before the
count, as R401 lists it (R450 puts `E_SIZE` first), and FRAC that its step is finite before the bounds, as R450 puts operands (R232
lists it after them), is the model's reading, log 14. -/
def Obligations.BankConfigurationErrors : Prop :=
  ∀ (s : State) (id : Nat) (w : Bool), id < s.nbanks →
    let m := (s.bankRegs id).mode
    let kind := (s.cfg.modeRec m.toNat).kind
    let rate := s.cr.rateIn.setWidth 64
    let outside := fun (low : Int) (v : Option Int) => ∀ n ∈ v, n < low ∨ (s.cfg.maxBlock : Int) < n
    (s.cfg.rateHz s.cr.rateIn.toNat = none ∨ s.cfg.cascade s.cr.rateIn.toNat w = none → s.Raises (.chsel w id) 1 rate) ∧
    (s.opReal.isPos = false → s.Raises (.dminit id) 5 0 ∧ s.Raises (.agcinit w id) 5 0 ∧ s.Raises (.aninit id) 5 0) ∧
    (s.opReal.isPos = true →
      (13 ≤ m.toNat → s.Raises (.dminit id) 5 0) ∧
      (m.toNat ≤ 12 → kind = .noSemantics ∨ (kind = .dv ∧ s.cfg.codec = false) →
        s.Raises (.dminit id) 8 (m.setWidth 64)) ∧
      (s.cr.agcRelGain.isPos = false ∨ outside 1 (s.cfg.agcLookahead.mul s.opReal).roundHalfUp? →
        s.Raises (.agcinit w id) 5 0)) ∧
    (13 ≤ m.toNat → s.Raises (.modinit id) 5 0) ∧
    (m.toNat ≤ 12 → s.cfg.txBundle = false → s.Raises (.modinit id) 8 (m.setWidth 64)) ∧
    (s.cfg.rateHz s.cr.rateIn.toNat = none → s.Raises (.nbinit id) 1 rate) ∧
    (∀ hz, s.cfg.rateHz s.cr.rateIn.toNat = some hz → outside 2 (s.cfg.nbTime.mul (.ofNat hz)).roundHalfUp? →
      s.Raises (.nbinit id) 5 0) ∧
    (s.opN ≤ s.cfg.maxBlock → s.opStep.isFinite = false → s.Raises (.frac id) 5 0) ∧
    (s.BufferOk s.fracExtent → s.opStep.isPos = false → s.Raises (.frac id) 5 0) ∧
    (s.BufferOk s.opN → (s.bank id).agc.valid = true → ¬s.AgcRegistersOk → s.Raises (.agcrun w id) 5 0) ∧
    (1 ≤ id → s.Raises (.aninit id) 5 0) ∧
    (1 ≤ id → s.BufferOk s.cfg.maxBlock → s.Raises (.anrun id) 5 0) ∧
    (s.cr.nrx.toNat ≤ id ∨ s.nbanks < s.cr.nrx.toNat → s.Raises (.piperx id) 5 0) ∧
    (id < s.cr.nrx.toNat → s.cr.nrx.toNat ≤ s.nbanks → s.a1 = 0 → s.Raises (.piperx id) 3 0)

/-- R446, R450: which commands consult the allocation oracle; when it answers failure, a command that would complete and consults it
raises `E_ALLOC` and changes nothing else (that this takes the answer is the model's choice, log 12; that every refresh consults it,
log 15), and a command that does not consult it ends as before. -/
def Obligations.AllocationFails : Prop :=
  (∀ (s : State) (v : Bool) (id : Nat) (tb : Table), s.allocs.headD true = false → id < s.nfilt →
    s.table s.opA = some tb → tb.val.length = s.opN → s.opA < s.ntab → 1 ≤ s.opN → s.opN ≤ s.cfg.maxTaps →
      ∃ t, exec (.finit v id) s = .next t ∧ State.Raised s.consulted t 2 0) ∧
  ∀ (i : Instr) (s t : State) (rest : List Bool),
    exec i { s with allocs := true :: rest } = .next t → t.cr.status.code = 0 →
      (t.allocs = rest →
        ∃ u, exec i { s with allocs := false :: rest } = .next u ∧ State.Raised { s with allocs := rest } u 2 0) ∧
      (t.allocs ≠ rest →
        t.allocs = true :: rest ∧ exec i { s with allocs := false :: rest } = .next { t with allocs := false :: rest }) ∧
      match i with
      | .finit _ _ | .ftune _ _ | .chsel _ _ | .dminit _ | .agcinit _ _ | .nbinit _ | .aninit _ => t.allocs = rest
      | .finterp id | .fresamp id => (t.allocs = rest ↔ (s.filter id).scap < s.opN)
      | .demod id => (t.allocs = rest ↔ (s.bank id).demod.Stale (s.bankRegs id))
      | .restore id => (t.allocs = rest ↔ s.outgrown (s.bank id).demod.int s.opN = true)
      | .piperx id =>
        ((s.bank id).demod.Stale (s.bankRegs id) → t.allocs = rest) ∧
          (¬(s.bank id).demod.Stale (s.bankRegs id) → (∀ x ∈ (s.bank id).demod.int, ∃ h, x = .hb h) → t.allocs ≠ rest)
      | _ => t.allocs ≠ rest

/-! ## The Filter Engine (spec/40_filter_engine.md) -/

/-- What a Filter Engine command may change (R21 to R23, R29, R86, R160 to R175): of the control registers `STATUS` and the error
and truncation counters; of the instance it names, FTUNE the tuned table, FAPPLY history and cursor, FDECIM the phase too, FINTERP
the scratch capacity too, FRESAMP all of these. -/
def Obligations.FilterCommandsFrame : Prop :=
  ∀ (s t : State) (v : Bool) (id : Nat), s.sm.wf = true → s.configOk = true →
    (exec (.finit v id) s = .next t → s.FilterFrame t id 0 0) ∧
    (exec (.ftune v id) s = .next t → s.FilterFrame t id 0 0 ∧
      t.filter id = { s.filter id with tuned := (t.filter id).tuned }) ∧
    (exec (.fapply id) s = .next t → s.FilterFrame t id s.opA t.r0.toNat ∧
      t.filter id = { s.filter id with hist := (t.filter id).hist, cur := (t.filter id).cur }) ∧
    (exec (.fdecim id) s = .next t → s.FilterFrame t id s.opA t.r0.toNat ∧
      t.filter id = { s.filter id with
        hist := (t.filter id).hist, cur := (t.filter id).cur, phase := (t.filter id).phase }) ∧
    (exec (.finterp id) s = .next t → s.FilterFrame t id s.opA t.r0.toNat ∧
      t.filter id = { s.filter id with
        hist := (t.filter id).hist, cur := (t.filter id).cur, scap := (t.filter id).scap }) ∧
    (exec (.fresamp id) s = .next t → s.FilterFrame t id s.opA t.r0.toNat ∧
      t.filter id = { s.filter id with
        hist := (t.filter id).hist, cur := (t.filter id).cur, phase := (t.filter id).phase, scap := (t.filter id).scap })

/-- R162, R204: FINIT binds a fresh filter instance when its checks hold; the words of HBINIT, and what it does: it binds a fresh
half-band instance, and an `ID` that names none is `E_PARAM`. -/
def Obligations.InstancesAreBound : Prop :=
  ∀ (s : State) (v : Bool) (id : Nat),
    (∀ tb : Table, id < s.nfilt → s.opA < s.ntab → 1 ≤ s.opN → s.opN ≤ s.cfg.maxTaps → s.table s.opA = some tb →
      tb.val.length = s.opN → s.allocOk = true →
        ∃ t, exec (.finit v id) s = .next t ∧ s.Completed t 0 0 false ∧
          t.filter id =
            { bound := true, variant := if v then .real else .cplx, tab := s.opA, taps := s.opN, tuned := none,
              hist := List.replicate s.opN .zero, cur := 0, phase := 0, scap := 0 }) ∧
    (id < 65536 → decode (BitVec.ofNat 32 (0x20000000 + (if v then 0x10000 else 0) + id)) = some (.hbinit v id)) ∧
    (s.nhb ≤ id → ∃ t, exec (.hbinit v id) s = .next t ∧ State.Raised s t 5 0) ∧
    (id < s.nhb →
      ∃ t, exec (.hbinit v id) s = .next t ∧ s.Completed t 0 0 false ∧
        t.half id =
          { bound := true, variant := if v then .real else .cplx, win := List.replicate 45 .zero, toggle := false })

/-- R165: FTUNE's table: tap `i` is `2·C[i]·cexp(2π·f·(i − (N−1)/2))`, with real and imaginary part exchanged for the lower
sideband; with a prototype value that is not finite the taps are free (R11) and everything else is as the rule says. -/
def Obligations.FtuneTable : Prop :=
  ∀ (s : State) (l : Bool) (id : Nat), id < s.nfilt → s.opReal.isFinite = true → s.FilterReady (s.filter id) →
    (s.filter id).variant = .cplx → s.allocOk = true →
      ∃ t taps, exec (.ftune l id) s = .next t ∧ s.Completed t 0 0 false ∧
        (t.filter id).tuned = some taps ∧ taps.length = (s.filter id).taps ∧
        ((∀ c ∈ s.coefs (s.filter id), c.isFinite = true) →
          ∀ i < (s.filter id).taps,
            let c := (s.coefs (s.filter id)).getD i .zero
            let d := (Real64.ofNat i).sub ((Real64.ofNat ((s.filter id).taps - 1)).div .two)
            let arg := ((Real64.two.mul .pi).mul s.opReal).mul d
            let re := (Real64.two.mul c).mul (s.cfg.cos arg)
            let im := (Real64.two.mul c).mul (s.cfg.sin arg)
            taps.getD i .zero = if l then ⟨im, re⟩ else ⟨re, im⟩)

/-- R160, R161, R163, R168: FAPPLY: one output per input, the cursor moves with the inputs, and output `m` is the sum over the taps
of coefficient times the input received that many inputs earlier. -/
def Obligations.FapplyConvolves : Prop :=
  ∀ (s : State) (id : Nat), id < s.nfilt → s.sm.wf = true → s.cfg.maxBlock < 2 ^ 64 → s.BufferOk s.opN →
    s.FilterReady (s.filter id) →
      let f := s.filter id
      let tb := s.coefs f
      let x := s.input f.variant
      ∃ t, exec (.fapply id) s = .next t ∧ s.Completed t s.a1 0 false ∧
        (t.filter id).cur = (f.cur + s.opN) % f.taps ∧
        (f.AllFinite tb x →
          (∀ m < s.opN, t.sm.read (s.opA + m) = cellOf f.variant (f.branch tb x m 0 1)) ∧
          ∀ q < f.taps, (t.filter id).newest (q + 1) = f.received x s.opN (q + 1))

/-- R170 (the source's "output count = ⌊(count + carried-phase)/ratio⌋"), R31, R160, R161: FDECIM: the count, the carried phase,
output `j`, made at the input that completes the ratio, and the samples the history holds. -/
def Obligations.FdecimDecimates : Prop :=
  ∀ (s : State) (id : Nat), id < s.nfilt → s.sm.wf = true → s.cfg.maxBlock < 2 ^ 64 → s.BufferOk s.opN →
    s.FilterReady (s.filter id) → 1 ≤ s.op2 → s.op2 ≤ s.cfg.maxTaps → (s.filter id).phase < s.op2 →
      let f := s.filter id
      let tb := s.coefs f
      let x := s.input f.variant
      let count := (s.opN + f.phase) / s.op2
      ∃ t, exec (.fdecim id) s = .next t ∧ s.Completed t (BitVec.ofNat 64 count) 0 false ∧
        (t.filter id).phase = (s.opN + f.phase) % s.op2 ∧ (t.filter id).cur = (f.cur + s.opN) % f.taps ∧
        (∀ m, count ≤ m → t.sm.read (s.opA + m) = s.sm.read (s.opA + m)) ∧
        (f.AllFinite tb x →
          (∀ j < count, t.sm.read (s.opA + j) =
            cellOf f.variant (f.branch tb x ((j + 1) * s.op2 - 1 - f.phase) 0 1)) ∧
          ∀ q < f.taps, (t.filter id).newest (q + 1) = f.received x s.opN (q + 1))

/-- R31, R172, R175, R448: FINTERP: `ratio` outputs per input consumed, as many inputs as `MAXBLOCK` admits, the scratch capacity,
output `s` of input `m`: sub-filter `s`, scaled by the ratio; and the samples the history holds. -/
def Obligations.FinterpInterpolates : Prop :=
  ∀ (s : State) (id : Nat), id < s.nfilt → s.sm.wf = true → s.cfg.maxBlock < 2 ^ 64 →
    s.BufferOk (s.extentUp s.opN (s.opN * s.op2)) → s.FilterReady (s.filter id) → 1 ≤ s.op2 → s.op2 ≤ s.cfg.maxTaps →
    ((s.filter id).scap < s.opN → s.allocOk = true) →
      let f := s.filter id
      let tb := s.coefs f
      let x := s.input f.variant
      let eaten := min s.opN (s.cfg.maxBlock / s.op2)
      ∃ t, exec (.finterp id) s = .next t ∧
        s.Completed t (BitVec.ofNat 64 (eaten * s.op2)) 0 (decide (eaten < s.opN)) ∧
        (t.filter id).cur = (f.cur + eaten) % f.taps ∧
        (t.filter id).scap = (if f.scap < s.opN then 2 * s.opN else f.scap) ∧
        (f.AllFinite tb x →
          (∀ m < eaten, ∀ k < s.op2, t.sm.read (s.opA + (m * s.op2 + k)) =
            cellOf f.variant ((f.branch tb x m k s.op2).scale (.ofNat s.op2))) ∧
          ∀ q < f.taps, (t.filter id).newest (q + 1) = f.received x eaten (q + 1))

/-- R174, R175, R448: FRESAMP: output `j` stands at position `phase + j · decim` on the grid that gives each input `interp`
places; as many inputs as `MAXBLOCK` admits are consumed, and the history holds the newest of them (R31); the scratch capacity grows
with the count. -/
def Obligations.FresampResamples : Prop :=
  ∀ (s : State) (id : Nat), id < s.nfilt → s.sm.wf = true → s.cfg.maxBlock < 2 ^ 64 →
    s.BufferOk (s.extentUp s.opN ((s.opN * s.op2 + (s.op3 - 1)) / s.op3 + 1)) → s.FilterReady (s.filter id) →
    1 ≤ s.op2 → s.op2 ≤ s.cfg.maxTaps → 1 ≤ s.op3 → s.op3 ≤ s.cfg.maxTaps →
    ((s.filter id).scap < s.opN → s.allocOk = true) →
      let f := s.filter id
      let tb := s.coefs f
      let x := s.input f.variant
      let made := fun c : Nat => (c * s.op2 - f.phase + (s.op3 - 1)) / s.op3
      ∃ t eaten, exec (.fresamp id) s = .next t ∧ eaten ≤ s.opN ∧ made eaten ≤ s.cfg.maxBlock ∧
        (eaten < s.opN → s.cfg.maxBlock < made (eaten + 1)) ∧
        s.Completed t (BitVec.ofNat 64 (made eaten)) 0 (decide (eaten < s.opN)) ∧
        (t.filter id).cur = (f.cur + eaten) % f.taps ∧
        (t.filter id).phase = f.phase + made eaten * s.op3 - eaten * s.op2 ∧
        (t.filter id).scap = (if f.scap < s.opN then 2 * s.opN else f.scap) ∧
        (f.AllFinite tb x →
          (∀ j < made eaten, t.sm.read (s.opA + j) =
            cellOf f.variant
              ((f.branch tb x ((f.phase + j * s.op3) / s.op2) ((f.phase + j * s.op3) % s.op2) s.op2).scale
                (.ofNat s.op2))) ∧
          ∀ q < f.taps, (t.filter id).newest (q + 1) = f.received x eaten (q + 1))

/-- R11, R168, U3: FAPPLY on values of which some may be NaN or infinite completes, and all but the samples it writes is as the rules
give it: count, cursor, `STATUS`, the history it does not write, everything else of the instance and of the state; only Real64 values
of the output and of the history it writes are free (log 3), and in the real variant an imaginary part stays 0. -/
def Obligations.FreeValuesKeepCounts : Prop :=
  ∀ (s : State) (id : Nat), id < s.nfilt → s.sm.wf = true → s.cfg.maxBlock < 2 ^ 64 → s.BufferOk s.opN →
    s.FilterReady (s.filter id) →
      let f := s.filter id
      ∃ t, exec (.fapply id) s = .next t ∧ s.Completed t s.a1 0 false ∧
        t = { s with r0 := s.a1, r1 := 0, cr := { s.cr with status := { code := 0, trunc := false } }, sm := t.sm, fi := t.fi,
                     draws := t.draws } ∧
        s.KeepsCellsOutside t s.opA s.opN ∧ (∀ j, j ≠ id → t.filter j = s.filter j) ∧
        t.filter id = { f with hist := (t.filter id).hist, cur := (f.cur + s.opN) % f.taps } ∧
        (t.filter id).hist.length = f.hist.length ∧
        (∀ q, s.opN < q → q ≤ f.taps → (t.filter id).newest q = f.newest (q - s.opN)) ∧
        (f.variant = .real →
          (∀ z ∈ (t.filter id).hist, z.im = .zero) ∧ ∀ m < s.opN, (t.sm.read (s.opA + m)).im = .zero)

/-! ## Half-band filters (spec/41_halfband.md) -/

/-- What a half-band command may change (R29, R86, R205 to R208): HBDEC2 the window and toggle of its instance, HBINT2 the window
only. -/
def Obligations.HalfBandCommandsFrame : Prop :=
  ∀ (s t : State) (v : Bool) (id : Nat), s.sm.wf = true → s.configOk = true →
    (exec (.hbinit v id) s = .next t → s.HalfFrame t id 0 0) ∧
    (exec (.hbdec2 id) s = .next t → s.HalfFrame t id s.opA t.r0.toNat ∧
      t.half id = { s.half id with win := (t.half id).win, toggle := (t.half id).toggle }) ∧
    (exec (.hbint2 id) s = .next t → s.HalfFrame t id s.opA t.r0.toNat ∧
      t.half id = { s.half id with win := (t.half id).win })

/-- R205, R206: HBDEC2: one output on every second input, and its value: 22 symmetric pairs and the centre. -/
def Obligations.Hbdec2Decimates : Prop :=
  ∀ (s : State) (id : Nat), id < s.nhb → s.sm.wf = true → s.cfg.maxBlock < 2 ^ 64 → s.BufferOk s.opN →
    (s.half id).bound = true → (s.half id).Ok →
      let i := s.half id
      let h := s.cfg.hb45
      let x := s.input i.variant
      let carried := if i.toggle then 1 else 0
      let count := (s.opN + carried) / 2
      ∃ t, exec (.hbdec2 id) s = .next t ∧ s.Completed t (BitVec.ofNat 64 count) 0 false ∧
        (t.half id).toggle = decide ((s.opN + carried) % 2 = 1) ∧
        (i.AllFinite x →
          (∀ j < count, t.sm.read (s.opA + j) =
            cellOf i.variant
              ((i.pairSum h x (2 * j + 1 - carried) 22 44 fun k => k).add
                ((i.received x (2 * j + 1 - carried) 22).scale (h.getD 22 .zero)))) ∧
          ∀ k < 45, (t.half id).win.getD k .zero = i.received x s.opN (k + 1))

/-- R205, R208, R448: HBINT2: two outputs per input consumed, the toggle untouched, both values, and the samples the window holds. -/
def Obligations.Hbint2Interpolates : Prop :=
  ∀ (s : State) (id : Nat), id < s.nhb → s.sm.wf = true → s.cfg.maxBlock < 2 ^ 64 →
    s.BufferOk (s.extentUp s.opN (2 * s.opN)) → (s.half id).bound = true → (s.half id).Ok →
      let i := s.half id
      let h := s.cfg.hb45
      let x := s.input i.variant
      let eaten := min s.opN (s.cfg.maxBlock / 2)
      ∃ t, exec (.hbint2 id) s = .next t ∧
        s.Completed t (BitVec.ofNat 64 (2 * eaten)) 0 (decide (eaten < s.opN)) ∧
        (t.half id).toggle = i.toggle ∧
        (i.AllFinite x →
          (∀ m < eaten,
            t.sm.read (s.opA + 2 * m) =
              cellOf i.variant
                (((i.pairSum h x m 11 22 fun k => 2 * k).add ((i.received x m 11).scale (h.getD 22 .zero))).scale .two) ∧
            t.sm.read (s.opA + (2 * m + 1)) =
              cellOf i.variant ((i.pairSum h x m 11 21 fun k => 2 * k + 1).scale .two)) ∧
          ∀ k < 45, (t.half id).win.getD k .zero = i.received x eaten (k + 1))

/-! ## The chain selector (spec/42_chain_selector.md) -/

/-- What a chain command may change (R29, R86, R224, R228, R232): CHSEL the chain, the resampler and `ACH_RATE`; CHRUN the stages of
the chain; FRAC the resampler. -/
def Obligations.ChainCommandsFrame : Prop :=
  ∀ (s t : State) (w : Bool) (id : Nat), s.sm.wf = true → s.configOk = true →
    (exec (.chsel w id) s = .next t → s.BankFrame t id 0 0 ∧ s.cr.KeepsAllButCounters t.cr ∧
      t.bank id = { s.bank id with chain := (t.bank id).chain, frac := (t.bank id).frac }) ∧
    (exec (.chrun id) s = .next t → s.BankFrame t id s.opA t.r0.toNat ∧ s.cr.KeepsAllButCounters t.cr ∧
      (t.chan id).achRate = (s.chan id).achRate ∧
      t.bank id = { s.bank id with chain := { (s.bank id).chain with stages := (t.bank id).chain.stages } }) ∧
    (exec (.frac id) s = .next t → s.BankFrame t id s.opA t.r0.toNat ∧ s.cr.KeepsAllButCounters t.cr ∧
      (t.chan id).achRate = (s.chan id).achRate ∧
      t.bank id = { s.bank id with frac := (t.bank id).frac })

/-- R136, R221, R222, R223, R224: CHSEL builds fresh complex stages of the cascade of `RATE_IN` and the flag, and records the achieved
rate: the input rate over the product of the ratios. The rates are R136's, and the configuration's from id 6 on; the cascade is the
first row of the configuration with the id and the flag, `FINAL(w)` in it the ratio 2 with the loose table for `w = 1` and the sharp
one for `w = 0`; the rows of R222 stand in the test configuration (another may omit them, log 21). The rate rounds an integer that is
no binary64 value (log 35). -/
def Obligations.ChselBuilds : Prop :=
  (∀ p : Params,
    (p.rateHz 0 = some 48000 ∧ p.rateHz 1 = some 96000 ∧ p.rateHz 2 = some 192000 ∧ p.rateHz 3 = some 240000 ∧
      p.rateHz 4 = some 384000 ∧ p.rateHz 5 = some 480000 ∧ ∀ n, 6 ≤ n → p.rateHz n = p.rates.lookup n) ∧
    ∀ (n : Nat) (w : Bool),
      ((∀ r ∈ p.chains, ¬(r.rateId = n ∧ r.wide = w)) → p.cascade n w = none) ∧
      ∀ (before after : List ChainRow) (row : List RowStage), p.chains = before ++ ⟨n, w, row⟩ :: after →
        (∀ r ∈ before, ¬(r.rateId = n ∧ r.wide = w)) →
          p.cascade n w = some (row.map fun e =>
            match e with
            | .stage d => d
            | .final => .fir 2 (if w then p.tabFinalLoose else p.tabFinalSharp))) ∧
  (∀ w : Bool,
    let last : StageDesc := .fir 2 (if w then State.reset.cfg.tabFinalLoose else State.reset.cfg.tabFinalSharp)
    State.reset.cfg.cascade 4 w = some [.hb, .hb, .hb, last] ∧ State.reset.cfg.cascade 1 w = some [.hb, last]) ∧
  ∀ (s : State) (w : Bool) (id hz : Nat) (ds : List StageDesc), id < s.nbanks → s.cfg.rateHz s.cr.rateIn.toNat = some hz →
    s.cfg.cascade s.cr.rateIn.toNat w = some ds → (∀ d ∈ ds, ∀ r t, d = .fir r t → (s.table t).isSome = true) →
    s.allocOk = true →
      let rate := (Real64.ofNat hz).div (.ofNat (ratioProduct ds))
      ∃ t, exec (.chsel w id) s = .next t ∧ s.Completed t 0 rate.bits false ∧ (t.chan id).achRate = rate ∧
        (t.bank id).chain.valid = true ∧ (t.bank id).chain.rateId = s.cr.rateIn.toNat ∧ (t.bank id).chain.wide = w ∧
        (t.bank id).chain.achRate = rate ∧ (t.bank id).chain.stages.length = ds.length ∧
        (∀ k < ds.length, (t.bank id).chain.stages[k]? = (ds[k]?).map fun d =>
          match d with
          | .hb => .hb { bound := true, variant := .cplx, win := List.replicate 45 .zero, toggle := false }
          | .fir r tab =>
            let n := ((s.table tab).map fun b => b.val.length).getD 0
            .fir { bound := true, variant := .cplx, tab := tab, taps := n, tuned := none,
                   hist := List.replicate n .zero, cur := 0, phase := 0, scap := 0 } r) ∧
        (t.bank id).frac = { h0 := .zero, h1 := .zero, h2 := .zero, h3 := .zero, mu := .zero }

/-- R228: CHRUN: the number of outputs is that of the stages one after the other, and the outputs are what the stages make of the block
one after the other; each stage carries its phase, `(n + carried) mod ratio` of the inputs it got, its cursor and the newest samples
to the next command. -/
def Obligations.ChrunDecimates : Prop :=
  ∀ (s : State) (id : Nat), id < s.nbanks → s.sm.wf = true → s.cfg.maxBlock < 2 ^ 64 → s.BufferOk s.opN →
    (s.bank id).chain.valid = true → (∀ x ∈ (s.bank id).chain.stages, x.Ok s.cfg) →
    s.StagesReady (s.bank id).chain.stages →
      let st := (s.bank id).chain.stages
      let x := s.input .cplx
      ∃ t, exec (.chrun id) s = .next t ∧ s.Completed t (BitVec.ofNat 64 (cascadeCount st s.opN)) 0 false ∧
        cascadeCarriesDown st (t.bank id).chain.stages s.opN ∧ cascadeCount st s.opN ≤ s.opN ∧
        ((∀ z ∈ x, z.isFinite = true) → s.CascadeFinite s.stageDecimates st x →
          cascadeRemembers (fun _ n => n) s.stageDecimates st (t.bank id).chain.stages x ∧
          ∀ m < cascadeCount st s.opN, t.sm.read (s.opA + m) = (cascaded s.stageDecimates st x).getD m .zero)

/-- R231, R232, R448: FRAC completes with at most its extent of outputs. With a step of 1 and no fraction carried it makes one output
per input: the cubic of R231 through the last four samples at position 0. In general, from a fraction `mu i` before input `i`, the
input makes an output at `mu i`, `mu i + step`, … while these are below 1, and leaves the first that is not, less 1, to the next
input. When the outputs of the block fit the extent it ends so; and when an input's outputs pass it, the command stops there, with
`TRUNC`, the state as it stands and the rest of the block dropped. (The bound is the extent, which is `MAXBLOCK` for a step below 1,
and the cut input stays in the history, as R232 and vector X3 say against R448's last whole input: log 30.) -/
def Obligations.FracResamples : Prop :=
  ∀ (s : State) (id : Nat), id < s.nbanks → s.sm.wf = true → s.cfg.maxBlock < 2 ^ 64 → s.BufferOk s.fracExtent →
    s.opStep.isPos = true →
      let f := (s.bank id).frac
      let x := s.input .cplx
      let seq := [f.h0, f.h1, f.h2, f.h3] ++ x
      let cubic := fun (k : Nat) (mu : Real64) =>
        let w0 := (((mu.mul (mu.sub .one)).mul (mu.sub .two)).neg).div (.ofNat 6)
        let w1 := (((mu.add .one).mul (mu.sub .one)).mul (mu.sub .two)).div .two
        let w2 := ((((mu.add .one).mul mu).mul (mu.sub .two)).neg).div .two
        let w3 := (((mu.add .one).mul mu).mul (mu.sub .one)).div (.ofNat 6)
        ((((seq.getD k .zero).scale w0).add ((seq.getD (k + 1) .zero).scale w1)).add ((seq.getD (k + 2) .zero).scale w2)).add
          ((seq.getD (k + 3) .zero).scale w3)
      let held := fun (k : Nat) (mu : Real64) =>
        ({ h0 := seq.getD k .zero, h1 := seq.getD (k + 1) .zero, h2 := seq.getD (k + 2) .zero, h3 := seq.getD (k + 3) .zero,
           mu := mu } : FracState)
      (∃ t count trunc, exec (.frac id) s = .next t ∧ s.Completed t (BitVec.ofNat 64 count) 0 trunc ∧
        count ≤ s.fracExtent ∧ (s.opN = 0 → count = 0 ∧ t.bank id = s.bank id)) ∧
      (s.opStep = .one → f.mu = .zero → (∀ z ∈ seq, z.isFinite = true) →
        ∃ t, exec (.frac id) s = .next t ∧ s.Completed t s.a1 0 false ∧ (t.bank id).frac = held s.opN .zero ∧
          ∀ m < s.opN, t.sm.read (s.opA + m) = cubic (m + 1) .zero) ∧
      ∀ (c : Nat → Nat) (mu : Nat → Real64) (m : Nat), mu 0 = f.mu →
        (∀ i < m, (∀ k < c i, (stepped s.opStep (mu i) k).lt .one = true) ∧
          (stepped s.opStep (mu i) (c i)).lt .one = false ∧ mu (i + 1) = (stepped s.opStep (mu i) (c i)).sub .one) →
        (∀ z ∈ seq, z.isFinite = true) →
          let n := outputsBefore c m
          (m = s.opN → n ≤ s.fracExtent →
            ∃ t, exec (.frac id) s = .next t ∧ s.Completed t (BitVec.ofNat 64 n) 0 false ∧ (t.bank id).frac = held m (mu m) ∧
              ∀ i < m, ∀ k < c i,
                t.sm.read (s.opA + (outputsBefore c i + k)) = cubic (i + 1) (stepped s.opStep (mu i) k)) ∧
          (m < s.opN → ∀ j, n + j = s.fracExtent → (∀ k ≤ j, (stepped s.opStep (mu m) k).lt .one = true) →
            ∃ t, exec (.frac id) s = .next t ∧ s.Completed t (BitVec.ofNat 64 s.fracExtent) 0 true ∧
              (t.bank id).frac = held (m + 1) (stepped s.opStep (mu m) j) ∧
              ∀ i ≤ m, ∀ k < (if i = m then j else c i),
                t.sm.read (s.opA + (outputsBefore c i + k)) = cubic (i + 1) (stepped s.opStep (mu i) k))

/-! ## The demodulator bank (spec/43_demod_bank.md) -/

/-- What a command of the demodulator bank may change (R29, R86, R254 to R274): DMINIT and DEMOD the demodulator, RESTORE its
interpolating stages, MODINIT and MOD the transmit state. -/
def Obligations.DemodCommandsFrame : Prop :=
  ∀ (s t : State) (id : Nat), s.sm.wf = true → s.configOk = true →
    (exec (.dminit id) s = .next t → s.BankFrame t id 0 0 ∧ s.cr.KeepsAllButCounters t.cr ∧
      (t.chan id).achRate = (s.chan id).achRate ∧ t.bank id = { s.bank id with demod := (t.bank id).demod }) ∧
    (exec (.demod id) s = .next t → s.BankFrame t id s.opA t.r0.toNat ∧ s.cr.KeepsAllButCounters t.cr ∧
      (t.chan id).achRate = (s.chan id).achRate ∧
      t.bank id = { s.bank id with demod := { (t.bank id).demod with
        valid := (s.bank id).demod.valid, mode := (s.bank id).demod.mode, inRate := (s.bank id).demod.inRate,
        rxfLower := (s.bank id).demod.rxfLower, int := (s.bank id).demod.int } }) ∧
    (exec (.restore id) s = .next t → s.BankFrame t id s.opA t.r0.toNat ∧ s.cr.KeepsAllButCounters t.cr ∧
      (t.chan id).achRate = (s.chan id).achRate ∧
      t.bank id = { s.bank id with demod := { (s.bank id).demod with int := (t.bank id).demod.int } }) ∧
    (exec (.modinit id) s = .next t → s.BankFrame t id 0 0 ∧ s.cr.KeepsAllButCounters t.cr ∧
      (t.chan id).achRate = (s.chan id).achRate ∧ t.bank id = { s.bank id with tx := (t.bank id).tx }) ∧
    (exec (.mod id) s = .next t → s.BankFrame t id s.opA t.r0.toNat ∧ s.cr.KeepsAllButCounters t.cr ∧
      (t.chan id).achRate = (s.chan id).achRate ∧
      t.bank id = { s.bank id with tx := { (s.bank id).tx with adapter := (t.bank id).tx.adapter } })

/-- R254: DMINIT latches mode, rates and filter registers and builds fresh stages and a fresh tuned filter; the detectors' memory is
cleared. The stage lists are those of `MODE_TABLE` (R252) for `D`, which times the filter rate is the input rate exactly (log 17), and
for `U`, which times the filter rate is `CANON · OUT_FACTOR`. With a prototype value that is not finite the Real64 values are free
(R11) and everything else is as the rule says. -/
def Obligations.DminitBuilds : Prop :=
  ∀ (s : State) (id D U : Nat) (ds us : List StageDesc) (tb : Table), id < s.nbanks → s.opReal.isPos = true →
    (s.bankRegs id).mode.toNat ≤ 12 →
    let c := s.bankRegs id
    let m := c.mode.toNat
    let r := s.cfg.modeRec m
    r.kind ≠ .noSemantics → (r.kind = .dv → s.cfg.codec = true) →
    s.opReal.toNat? = some (D * r.filterRate) → U * r.filterRate = s.cfg.canon * s.cfg.outFactor → 1 ≤ U →
    StageListFor r.dec D ds → StageListFor r.int U us → c.rxfTab.toNat < s.ntab → s.table c.rxfTab.toNat = some tb → c.rxfFreq.isFinite = true →
    (∀ d ∈ ds ++ us, ∀ n t, d = .fir n t → (s.table t).isSome = true) → s.allocOk = true →
      ∃ t, exec (.dminit id) s = .next t ∧ s.Completed t 0 0 false ∧
        (let d := (t.bank id).demod
         d.valid = true ∧ d.mode = m ∧ d.rxfTab = c.rxfTab.toNat ∧ d.rxfLower = r.lower ∧
          d.dec.length = ds.length ∧ d.int.length = us.length ∧ d.rxf.taps = tb.val.length ∧ d.rxf.cur = 0) ∧
        ((∀ v ∈ tb.val, v.isFinite = true) →
          (t.bank id).demod =
            { valid := true, mode := m, inRate := s.opReal, dec := ds.map (s.freshStage .cplx),
              rxf := { bound := true, variant := .cplx, tab := c.rxfTab.toNat, taps := tb.val.length,
                       tuned := some (tune s.cfg tb.val c.rxfFreq r.lower),
                       hist := List.replicate tb.val.length .zero, cur := 0, phase := 0, scap := 0 },
              rxfTab := c.rxfTab.toNat, rxfFreq := c.rxfFreq, rxfLower := r.lower, amDc := .zero, fmPrev := .zero,
              fmX1 := .zero, fmY1 := .zero,
              int := us.map (s.freshStage (if r.kind = .digRaw then .cplx else .real)),
              dv := if r.kind = .dv then Config.codecOpen m else 0 })

/-- R256, R257, R268: DEMOD completes, after the filter refresh when the registers differ from the latched ones; it writes as many
samples as the decimating stages give, and no more than it read when a codec answers. A refresh tunes the receive filter with the
new prototype and frequency, keeps its history when the length stays and clears it otherwise. Each decimating stage carries its
phase, its cursor and the newest samples to the next command, and so does the receive filter where it runs; where it does not run it
stays as the refresh left it. That overflow inside the filter frees nothing in the same pass is the model's choice (log 3). -/
def Obligations.DemodCompletes : Prop :=
  ∀ (s : State) (id : Nat), id < s.nbanks → s.cfg.maxBlock < 2 ^ 64 → s.BufferOk s.opN → s.DemodReady id →
    let d := (s.bank id).demod
    let c := s.bankRegs id
    let rxf := s.demodFilter id
    let y := s.demodStream id
    ∃ t count, exec (.demod id) s = .next t ∧ s.Completed t (BitVec.ofNat 64 count) 0 false ∧ count ≤ s.opN ∧
      (s.demodKind id ≠ .dv → count = cascadeCount d.dec s.opN) ∧
      cascadeCarriesDown d.dec (t.bank id).demod.dec s.opN ∧ (t.bank id).demod.rxfTab = c.rxfTab.toNat ∧
      (t.bank id).demod.rxf.taps = rxf.taps ∧ (t.bank id).demod.rxf.tab = rxf.tab ∧
      (s.DemodTuned id → s.demodKind id ≠ .dv → s.opN = 0 →
        (t.bank id).demod = { d with rxf := rxf, rxfTab := c.rxfTab.toNat, rxfFreq := c.rxfFreq }) ∧
      (s.DemodFinite id →
        let u := (t.bank id).demod.rxf
        u.tuned = rxf.tuned ∧ (t.bank id).demod.rxfFreq = c.rxfFreq ∧
          cascadeRemembers (fun _ n => n) s.stageDecimates d.dec (t.bank id).demod.dec (s.input .cplx) ∧
          (¬s.FilterUsed id → u = rxf) ∧
          (s.FilterUsed id → u = { rxf with hist := u.hist, cur := (rxf.cur + y.length) % rxf.taps } ∧
            ∀ q < rxf.taps, u.newest (q + 1) = rxf.received y y.length (q + 1)))

/-- R256, R257, R258, R259, R264, R265, U17: the sideband and digital detectors: what each sample of the stream that the decimating
stages make becomes, also in a command that refreshes the receive filter. In the digital modes the filter runs exactly when `RXF_BW`
compares below the threshold, which a NaN does not; an infinite `RXF_BW` frees what these modes write (R11) and is not stated here. That the detector reads nothing
that overflow makes in the filter in the same pass is the model's choice (log 3). -/
def Obligations.SidebandAndDigitalDetectors : Prop :=
  ∀ (s : State) (id : Nat), id < s.nbanks → s.sm.wf = true → s.cfg.maxBlock < 2 ^ 64 → s.BufferOk s.opN → s.DemodReady id →
    s.DemodFinite id →
    let d := (s.bank id).demod
    let y := s.demodStream id
    let lower := (s.cfg.modeRec d.mode).lower
    let chosen := fun m =>
      if (s.bankRegs id).rxfBw.lt s.cfg.digBwThreshold then s.demodFiltered id m else y.getD m .zero
    let gives := fun (out : Nat → Cplx) =>
      ∃ t, exec (.demod id) s = .next t ∧ s.Completed t (BitVec.ofNat 64 y.length) 0 false ∧
        ∀ m < y.length, t.sm.read (s.opA + m) = out m
    (s.demodKind id = .ssbcw →
      gives fun m =>
        let z := s.demodFiltered id m
        .ofReal (if (!d.rxfLower) = s.cfg.sbPlusIsUpper then z.re.add z.im else z.re.sub z.im)) ∧
    (s.demodKind id = .digSum →
      gives fun m => .ofReal (if lower then (chosen m).re.sub (chosen m).im else (chosen m).re.add (chosen m).im)) ∧
    (s.demodKind id = .digRaw → gives chosen)

/-- R256, R257, R260, R261, R449: the AM and FM detectors over the stream that the decimating stages make, also in a command that
refreshes the receive filter: the DC remover, the phase detector with its guard and its de-emphasis, every output, and what each keeps
for the next command. That AM reads nothing that overflow makes in the filter in the same pass is the model's choice (log 3). -/
def Obligations.AmAndFmDetectors : Prop :=
  ∀ (s : State) (id : Nat), id < s.nbanks → s.sm.wf = true → s.cfg.maxBlock < 2 ^ 64 → s.BufferOk s.opN → s.DemodReady id →
    s.DemodFinite id →
    let n := (s.demodStream id).length
    (s.demodKind id = .am →
      ∃ t, exec (.demod id) s = .next t ∧ s.Completed t (BitVec.ofNat 64 n) 0 false ∧
        (t.bank id).demod.amDc = s.amAfter id n ∧
        ∀ m < n, t.sm.read (s.opA + m) = .ofReal ((s.amAfter id (m + 1)).sub (s.amAfter id m))) ∧
    (s.demodKind id = .fm →
      ∃ t, exec (.demod id) s = .next t ∧ s.Completed t (BitVec.ofNat 64 n) 0 false ∧
        (t.bank id).demod.fmPrev = s.fmBefore id n ∧
        ((t.bank id).demod.fmX1, (t.bank id).demod.fmY1) = s.fmAfter id n ∧
        ∀ m < n, t.sm.read (s.opA + m) = .ofReal (s.fmAfter id (m + 1)).2)

/-- R270, R448: RESTORE: as many outputs per input as the product of the ratios of the interpolating stages when `MAXBLOCK` admits them,
and otherwise what the stages make one after the other, each cut at `MAXBLOCK`; the outputs are what the stages make of the block;
each stage carries its cursor, its scratch capacity and the newest samples it consumed to the next command, and no phase moves. -/
def Obligations.RestoreInterpolates : Prop :=
  ∀ (s : State) (id : Nat), id < s.nbanks → s.sm.wf = true → s.cfg.maxBlock < 2 ^ 64 →
    let d := (s.bank id).demod
    let st := d.int
    let v : Variant := if (s.cfg.modeRec d.mode).kind = .digRaw then .cplx else .real
    let x := s.input v
    let count := s.interpolatedCount st s.opN
    s.BufferOk (max s.opN (min (s.opN * stagesRatio st) s.cfg.maxBlock)) → d.valid = true →
    (∀ x ∈ st, x.Ok s.cfg) → s.StagesReady st → (s.outgrown st s.opN = true → s.allocOk = true) →
      ∃ t, exec (.restore id) s = .next t ∧
        s.Completed t (BitVec.ofNat 64 count) 0 (s.interpolationCut st s.opN) ∧
        count ≤ s.cfg.maxBlock ∧ s.cascadeCarriesUp st (t.bank id).demod.int s.opN ∧
        (s.opN * stagesRatio st ≤ s.cfg.maxBlock →
          count = s.opN * stagesRatio st ∧ s.interpolationCut st s.opN = false) ∧
        ((∀ z ∈ x, z.isFinite = true) → s.CascadeFinite s.stageInterpolates st x →
          cascadeRemembers s.eaten s.stageInterpolates st (t.bank id).demod.int x ∧
          ∀ m < count, t.sm.read (s.opA + m) = cellOf v ((cascaded s.stageInterpolates st x).getD m .zero))

/-- R272 to R274, R448: with a `TxBundle`, MODINIT latches the mode and gives the adapter its first state; MOD's output count depends on
the adapter's state and the count only, and is cut at `MAXBLOCK`. -/
def Obligations.TransmitCompletes : Prop :=
  ∀ (s : State) (id : Nat), id < s.nbanks →
    (s.cfg.txBundle = true → (s.bankRegs id).mode.toNat ≤ 12 →
      ∃ t, exec (.modinit id) s = .next t ∧ s.Completed t 0 0 false ∧
        (t.bank id).tx = { valid := true, mode := (s.bankRegs id).mode.toNat,
                           adapter := Config.txInit (s.bankRegs id).mode.toNat }) ∧
    (s.BufferOk s.cfg.maxBlock → s.sm.wf = true → s.cfg.maxBlock < 2 ^ 64 → (s.bank id).tx.valid = true →
      let st := (s.bank id).tx.adapter
      let x := (List.range s.opN).map fun k => (s.sm.read (s.opA + k)).re
      let count := Config.txCount st s.opN
      ∃ t, exec (.mod id) s = .next t ∧
        s.Completed t (BitVec.ofNat 64 (min count s.cfg.maxBlock)) 0 (decide (s.cfg.maxBlock < count)) ∧
        ((∀ v ∈ x ++ [s.cr.micPreemph, s.cr.micClip, s.cr.micVox], v.isFinite = true) →
          let a := Config.txPreemphasis st x s.cr.micPreemph s.cr.micVox
          let b := Config.txLevelSoftclip a.1 a.2 s.cr.micClip
          let z := Config.txBandpassModulate b.1 b.2
          (t.bank id).tx.adapter = Config.txInterpolateState z.1 z.2 ∧
          ∀ k < min count s.cfg.maxBlock, t.sm.read (s.opA + k) = Config.txInterpolate z.1 z.2 k))

/-! ## AGC, noise blanker, auto-notch (spec/44_agc.md, spec/45_noise_blanker.md, spec/46_auto_notch.md) -/

/-- What a command of these components may change (R29, R56, R86, R301 to R306, R331 to R336, R361 to R364): its component; AGCRUN
also `OVR_CNT`, and `AGC_GAIN` on bank 0; ANINIT and ANRUN also the two notch bins. -/
def Obligations.ComponentCommandsFrame : Prop :=
  ∀ (s t : State) (v : Bool) (id : Nat), s.sm.wf = true → s.configOk = true →
    (exec (.agcinit v id) s = .next t → s.BankFrame t id 0 0 ∧ s.cr.KeepsAllButCounters t.cr ∧
      (t.chan id).achRate = (s.chan id).achRate ∧ t.bank id = { s.bank id with agc := (t.bank id).agc }) ∧
    (exec (.agcrun v id) s = .next t → s.BankFrame t id s.opA t.r0.toNat ∧
      t.cr = { s.cr with
        status := t.cr.status, errCnt := t.cr.errCnt, ovrCnt := t.cr.ovrCnt,
        agcGain := if id = 0 then t.cr.agcGain else s.cr.agcGain } ∧
      (t.chan id).achRate = (s.chan id).achRate ∧ t.bank id = { s.bank id with agc := (t.bank id).agc }) ∧
    (exec (.nbinit id) s = .next t → s.BankFrame t id 0 0 ∧ s.cr.KeepsAllButCounters t.cr ∧
      (t.chan id).achRate = (s.chan id).achRate ∧ t.bank id = { s.bank id with nb := (t.bank id).nb }) ∧
    (exec (.nbrun id) s = .next t → s.BankFrame t id s.opA t.r0.toNat ∧ s.cr.KeepsAllButCounters t.cr ∧
      (t.chan id).achRate = (s.chan id).achRate ∧ t.bank id = { s.bank id with nb := (t.bank id).nb }) ∧
    (exec (.aninit id) s = .next t → s.BankFrame t id 0 0 ∧
      t.cr = { s.cr with
        status := t.cr.status, errCnt := t.cr.errCnt, notchBin0 := t.cr.notchBin0, notchBin1 := t.cr.notchBin1 } ∧
      (t.chan id).achRate = (s.chan id).achRate ∧ t.bank id = { s.bank id with notch := (t.bank id).notch }) ∧
    (exec (.anrun id) s = .next t → s.BankFrame t id s.opA t.r0.toNat ∧
      t.cr = { s.cr with
        status := t.cr.status, errCnt := t.cr.errCnt, xrunCnt := t.cr.xrunCnt, notchBin0 := t.cr.notchBin0,
        notchBin1 := t.cr.notchBin1 } ∧
      (t.chan id).achRate = (s.chan id).achRate ∧ t.bank id = { s.bank id with notch := (t.bank id).notch })

/-- R301, R331, R361: AGCINIT, NBINIT and ANINIT give their component its freshly configured value; the lengths are
`floor(time · rate + 0.5)`, and must lie in the range the rule gives. -/
def Obligations.ComponentsAreInitialised : Prop :=
  ∀ (s : State) (v : Bool) (id : Nat), id < s.nbanks → s.allocOk = true →
    (∀ n : Nat, s.opReal.isPos = true → s.cr.agcRelGain.isPos = true →
      (s.cfg.agcLookahead.mul s.opReal).roundHalfUp? = some (n : Int) → 1 ≤ n → n ≤ s.cfg.maxBlock →
        ∃ t, exec (.agcinit v id) s = .next t ∧ s.Completed t 0 0 false ∧
          (t.bank id).agc =
            { valid := true, len := n, buf := List.replicate n .zero, indexRead := 0, indexStart := 0,
              gain := s.cr.agcRelGain, targetGain := s.cr.agcRelGain, delta := .zero, maxMag := .zero, clipping := false,
              fs := s.opReal, alpha := .zero, fm := v }) ∧
    (∀ n hz : Nat, s.cfg.rateHz s.cr.rateIn.toNat = some hz →
      (s.cfg.nbTime.mul (.ofNat hz)).roundHalfUp? = some (n : Int) → 2 ≤ n → n ≤ s.cfg.maxBlock →
        ∃ t, exec (.nbinit id) s = .next t ∧ s.Completed t 0 0 false ∧
          (t.bank id).nb =
            { valid := true, w := n, h := n / 2, bufS := List.replicate n .zero, bufM := List.replicate n .zero,
              sum := .zero, idx := 0, st := .normal, ramp := 0, seen := 0 }) ∧
    (id = 0 → s.opReal.isPos = true →
      ∃ t, exec (.aninit id) s = .next t ∧ s.Completed t 0 0 false ∧ t.cr.notchBin0 = 0xFFFFFFFF ∧
        t.cr.notchBin1 = 0xFFFFFFFF ∧
        (t.bank id).notch =
          { valid := true, fs := s.opReal, blk := List.replicate s.cfg.anNfft .zero, fill := 0,
            avg := List.replicate (s.cfg.anNfft / 2 + 1) .zero,
            slot0 := { prev := -1, cnt := s.cfg.anHmin, tgt := none, builtFor := none },
            slot1 := { prev := -1, cnt := s.cfg.anHmin, tgt := none, builtFor := none },
            kernel := buildKernel s.cfg none none, dly := List.replicate s.cfg.anExtraDelay .zero })

/-- R303, R305, R306, R307, R56: AGCRUN: one output per sample, the cursor moves round the look-ahead buffer, `OVR_CNT` rises by the
number of samples whose level after the gain exceeds full scale, `AGC_GAIN` shows the gain of bank 0; with finite samples the AGC
ends as its samples leave it one after the other, and each output is the delayed sample times the gain, limited to full scale. That the
limiter reads nothing that overflow makes in the same pass is the model's choice (log 3), and so is a minimum with a NaN (log 34). -/
def Obligations.AgcrunCompletes : Prop :=
  ∀ (s : State) (x : Bool) (id : Nat), id < s.nbanks → s.sm.wf = true → s.cfg.maxBlock < 2 ^ 64 → s.BufferOk s.opN →
    let g := (s.bank id).agc
    let v : Variant := if x then .cplx else .real
    let level := fun z : Cplx => if x then s.cfg.sqrt ((z.re.mul z.re).add (z.im.mul z.im)) else z.re.abs
    let delayed := fun m =>
      ((s.agcAfter x id m).buf.getD ((g.indexRead + m) % g.len) .zero).scale (s.agcAfter x id m).gain
    let clamped := ((List.range s.opN).filter fun m => s.cfg.clip.lt (level (delayed m))).length
    g.valid = true → g.Ok → s.AgcRegistersOk →
      ∃ t, exec (.agcrun x id) s = .next t ∧ s.Completed t s.a1 0 false ∧
        t.cr.ovrCnt = s.cr.ovrCnt + BitVec.ofNat 32 clamped ∧ (id = 0 → t.cr.agcGain = (t.bank id).agc.gain) ∧
        (t.bank id).agc.indexRead = (g.indexRead + s.opN) % g.len ∧ (t.bank id).agc.len = g.len ∧
        (t.bank id).agc.fs = g.fs ∧ (t.bank id).agc.fm = g.fm ∧
        ((∀ z ∈ s.input v ++ g.buf, z.isFinite = true) →
          (t.bank id).agc = s.agcAfter x id s.opN ∧
          ∀ m < s.opN, t.sm.read (s.opA + m) = cellOf v
            (if s.cfg.clip.lt (level (delayed m)) then (delayed m).scale (s.cfg.clip.div (level (delayed m)))
             else delayed m))

/-- R303, R305, R307, R449: the six steps of AGCRUN on one sample, for every AGC: (1) the delayed sample times the gain, (2) limited to
full scale, (3) the new sample in its place and the peak tracked, (4) a level that would pass `AGC_MAXOUT` sets target and ramp, also
while a correction runs, (5) the ramp or the smoothing, (6) the cursor, and at the end of a revolution without a correction the
release target, with the FM exemption and the guard for a zero peak. For a peak that is NaN, the release gain is the model's choice
(log 34); that the limiter reads nothing that overflow makes in the same pass is another (log 3). -/
def Obligations.AgcOneSample : Prop :=
  ∀ (s : State) (x : Bool) (id : Nat), id < s.nbanks → s.sm.wf = true → s.BufferOk s.opN → s.opN = 1 →
    s.cfg.maxBlock < 2 ^ 64 →
    let g := (s.bank id).agc
    let v := cellOf (if x then .cplx else .real) (s.sm.read s.opA)
    let level := fun z : Cplx => if x then s.cfg.sqrt ((z.re.mul z.re).add (z.im.mul z.im)) else z.re.abs
    let delayed := (g.buf.getD g.indexRead .zero).scale g.gain
    let alpha := Real64.one.sub (s.cfg.exp (Real64.one.neg.div (s.cr.agcRelTime.mul g.fs)))
    let peak := if g.maxMag.lt (level v) then level v else g.maxMag
    let begins := s.cr.agcMaxOut.lt ((level v).mul (if g.clipping then g.targetGain else g.gain))
    let target := if begins then s.cr.agcMaxOut.div (level v) else g.targetGain
    let delta := if begins then (g.gain.sub target).div (.ofNat g.len) else g.delta
    let correcting := g.clipping || begins
    let reached := (g.gain.sub delta).le target
    let clipping := correcting && !reached
    let cursor := (g.indexRead + 1) % g.len
    let turn := decide (cursor = g.indexStart) && !clipping
    let release := s.cfg.clip.div peak
    g.valid = true → g.Ok → s.AgcRegistersOk → v.isFinite = true → (g.buf.getD g.indexRead .zero).isFinite = true →
      ∃ t, exec (.agcrun x id) s = .next t ∧ s.Completed t 1 0 false ∧
        t.sm.read s.opA = cellOf (if x then .cplx else .real)
          (if s.cfg.clip.lt (level delayed) then delayed.scale (s.cfg.clip.div (level delayed)) else delayed) ∧
        t.cr.ovrCnt = s.cr.ovrCnt + (if s.cfg.clip.lt (level delayed) then 1 else 0) ∧
        (t.bank id).agc =
          { g with
            buf := g.buf.set g.indexRead v, indexRead := cursor, alpha := alpha, delta := delta, clipping := clipping,
            gain :=
              if correcting then (if reached then target else g.gain.sub delta)
              else g.gain.add ((target.sub g.gain).mul alpha),
            targetGain :=
              if turn then
                (if peak.eqv .zero then s.cr.agcRelGain
                 else if g.fm then release
                 else if release.lt s.cr.agcRelGain then release else s.cr.agcRelGain)
              else target,
            maxMag := if turn then .zero else peak }

/-- R333, R334, R336: NBRUN at level 0 reads and writes nothing, no cell and no blanker, and needs none. At another level: one output
per sample, the cursor moves round the delay line, the samples seen saturate at `W`; and while fewer than `W` samples have been seen
nothing is blanked: the outputs are what the line holds, the inputs take their places. -/
def Obligations.BlankerRuns : Prop :=
  ∀ (s : State) (id : Nat), id < s.nbanks → s.BufferOk s.opN →
    (s.cr.nbLevel = 0 →
      ∃ t, exec (.nbrun id) s = .next t ∧
        t = { s with r0 := s.a1, r1 := 0, cr := { s.cr with status := { code := 0, trunc := false } }, draws := t.draws }) ∧
    (s.sm.wf = true → s.cfg.maxBlock < 2 ^ 64 → s.cr.nbLevel ≠ 0 → (s.bank id).nb.valid = true → (s.bank id).nb.Ok →
      let b := (s.bank id).nb
      let x := s.input .cplx
      ∃ t, exec (.nbrun id) s = .next t ∧ s.Completed t s.a1 0 false ∧
        (t.bank id).nb.idx = (b.idx + s.opN) % b.w ∧ (t.bank id).nb.seen = min b.w (b.seen + s.opN) ∧
        (t.bank id).nb.w = b.w ∧ (t.bank id).nb.h = b.h ∧
        (b.st = .normal → b.seen + s.opN ≤ b.w → (∀ z ∈ x ++ b.bufS, z.isFinite = true) →
          (t.bank id).nb.st = .normal ∧
          ∀ m < s.opN, t.sm.read (s.opA + m) = b.bufS.getD ((b.idx + m) % b.w) .zero ∧
            (t.bank id).nb.bufS.getD ((b.idx + m) % b.w) .zero = x.getD m .zero))

/-- R333, R334, R335: NBRUN on one sample, in each of its three states: the running sum and average, the detector with its hold-off, the
sample in the delay line (as it is, blanked, or on the rising ramp), the fade of the half-window before a pulse, and the state after
it. -/
def Obligations.BlankerOneSample : Prop :=
  ∀ (s : State) (id : Nat), id < s.nbanks → s.sm.wf = true → s.BufferOk s.opN → s.opN = 1 → s.cfg.maxBlock < 2 ^ 64 →
    let b := (s.bank id).nb
    let x := s.sm.read s.opA
    let thr := if s.cr.nbLevel = 1 then s.cfg.nbThresh1 else if s.cr.nbLevel = 2 then s.cfg.nbThresh2 else s.cfg.nbThresh3
    let mag := s.cfg.sqrt ((x.re.mul x.re).add (x.im.mul x.im))
    let sum := (b.sum.sub (b.bufM.getD b.idx .zero)).add mag
    let pulsed := b.w ≤ b.seen ∧ ((sum.div (.ofNat b.w)).mul thr).lt mag = true
    let fades := b.st = .normal ∧ pulsed
    let back := fun d => (b.idx + b.w - d) % b.w
    let ramp := if b.st = .pulseActive then 0 else b.ramp
    s.cr.nbLevel ≠ 0 → b.valid = true → b.Ok → x.isFinite = true → (b.bufS.getD b.idx .zero).isFinite = true →
    (fades → ∀ d, 1 ≤ d → d ≤ b.h → (b.bufS.getD (back d) .zero).isFinite = true) →
      ∃ t, exec (.nbrun id) s = .next t ∧ s.Completed t 1 0 false ∧ t.sm.read s.opA = b.bufS.getD b.idx .zero ∧
        let u := (t.bank id).nb
        u = { b with
          bufS := u.bufS, bufM := b.bufM.set b.idx mag, sum := sum, idx := (b.idx + 1) % b.w, seen := min b.w (b.seen + 1),
          st :=
            if pulsed then .pulseActive
            else if b.st = .normal ∨ ramp + 1 = b.h then .normal
            else .windowRaising,
          ramp := if pulsed ∨ b.st = .normal then b.ramp else ramp + 1 } ∧
        u.bufS.length = b.w ∧
        u.bufS.getD b.idx .zero =
          (if pulsed then .zero else if b.st = .normal then x else x.scale ((Real64.ofNat ramp).div (.ofNat b.h))) ∧
        (fades → ∀ d, 1 ≤ d → d ≤ b.h →
          u.bufS.getD (back d) .zero = (b.bufS.getD (back d) .zero).scale ((Real64.ofNat (d - 1)).div (.ofNat b.h))) ∧
        ∀ j, j ≠ b.idx → (fades → ∀ d, 1 ≤ d → d ≤ b.h → j ≠ back d) → u.bufS.getD j .zero = b.bufS.getD j .zero

/-- R363, R448: ANRUN: whole hops of `AN_B` outputs, as many as the samples complete and `MAXBLOCK` admits; the bins show the
targets; `valid` and the rate stay. The block buffer holds the stream, slid by a hop for each one completed: the samples before this
command's first, then those it consumed, up to the fill level. Without a hop nothing else of the notch changes. -/
def Obligations.AnrunCounts : Prop :=
  ∀ (s : State), 0 < s.nbanks → s.cfg.maxBlock < 2 ^ 64 → 1 ≤ s.cfg.anB →
    s.BufferOk (min (s.opN + s.cfg.anB - 1) s.cfg.maxBlock) → (s.bank 0).notch.valid = true →
    (s.bank 0).notch.fill < s.cfg.anB →
      let b := s.cfg.anB
      let fill := (s.bank 0).notch.fill
      let hops := min ((fill + s.opN) / b) (s.cfg.maxBlock / b)
      let cut := decide (hops < (fill + s.opN) / b)
      let left := if cut then b - 1 else (fill + s.opN) % b
      let g := (s.bank 0).notch
      let start := s.cfg.anNfft - b
      let stream := g.blk.take (start + fill) ++ (s.input .real).map Cplx.re
      ∃ t, exec (.anrun 0) s = .next t ∧ s.Completed t (BitVec.ofNat 64 (hops * b)) 0 cut ∧
        let u := (t.bank 0).notch
        u.fill = left ∧ u.valid = g.valid ∧ u.fs = g.fs ∧
        t.cr.notchBin0 = notchBin u.slot0.tgt ∧ t.cr.notchBin1 = notchBin u.slot1.tgt ∧
        (hops = 0 → u = { g with blk := u.blk, fill := left }) ∧
        (b ≤ s.cfg.anNfft → g.blk.length = s.cfg.anNfft → s.NotchFinite →
          u.blk.length = s.cfg.anNfft ∧ (∀ p < start + left, u.blk.getD p .zero = stream.getD (p + hops * b) .zero) ∧
          (hops = 0 → ∀ p, start + left ≤ p → u.blk.getD p .zero = g.blk.getD p .zero))

/-- R363, R365 to R368: ANRUN on the sample that completes a hop: the running average of the bins, the two loudest allowed bins, the
hysteresis of the two slots, the kernel rebuilt when the accepted targets changed and applied to this same hop, the `AN_B` outputs
through the extra delay, and the slide of the block buffer. (Averages that are NaN: log 32; a sidetone bin without a floor: log 23;
that nothing overflow makes of the spectrum counts as read: log 3.) -/
def Obligations.NotchHop : Prop :=
  ∀ (s : State) (ks : Option Int), 0 < s.nbanks → s.configOk = true → s.sm.wf = true → s.opN = 1 → s.BufferOk s.cfg.anB →
    s.cfg.anB ≤ s.cfg.maxBlock → s.cr.sidetoneFreq.isFinite = true →
    let p := s.cfg
    let g := (s.bank 0).notch
    let m := p.anNfft
    let f := s.cr.sidetoneFreq.abs
    let x := (s.sm.read s.opA).re
    let blk := g.blk.set (m - 1) x
    let spectrum := p.fft (blk.map fun v => ⟨v, .zero⟩)
    let avg := fun k =>
      let z := spectrum.getD k .zero
      let a := g.avg.getD k .zero
      a.add (p.anBeta.mul ((p.sqrt ((z.re.mul z.re).add (z.im.mul z.im))).sub a))
    let allowed := fun k : Nat => 1 ≤ k ∧ k < m / 2 ∧ ∀ c ∈ ks, (p.anExclTone : Int) < ((k : Int) - c).natAbs
    g.valid = true → g.Ok p → g.fill + 1 = p.anB →
    (if f.eqv .zero then ks = none else ks.isSome = true ∧ ks = ((f.mul (.ofNat m)).div g.fs).roundHalfUp?) →
    (∀ k, allowed k → (avg k).isNaN = false) →
      ∃ t p0 p1, Loudest avg allowed p0 ∧
        Loudest avg (fun k => allowed k ∧ ∃ q ∈ p0, p.anExclPeer < ((k : Int) - (q : Int)).natAbs) p1 ∧
        exec (.anrun 0) s = .next t ∧ s.Completed t (BitVec.ofNat 64 p.anB) 0 false ∧
        let u := (t.bank 0).notch
        let kernel :=
          if u.slot0.tgt = g.slot0.builtFor ∧ u.slot1.tgt = g.slot1.builtFor then g.kernel
          else notchKernel p u.slot0.tgt u.slot1.tgt
        let y := p.ifft ((List.range m).map fun k => (spectrum.getD k .zero).mul (kernel.getD k .zero))
        let v := (List.range p.anB).map fun i => (y.getD (m - p.anB + i) .zero).re
        u.slot0 = g.slot0.tracked p p0 ∧ u.slot1 = g.slot1.tracked p p1 ∧ u.fill = 0 ∧
        t.cr.notchBin0 = notchBin u.slot0.tgt ∧ t.cr.notchBin1 = notchBin u.slot1.tgt ∧
        ((∀ w ∈ blk, w.isFinite = true) → (∀ z ∈ kernel, z.isFinite = true) →
          (g.dly ≠ [] → ∀ i < p.anB, ((g.dly ++ v).getD i .zero).isFinite = true) →
          u = { g with
            blk := (List.range m).map (fun i => blk.getD (if i < m - p.anB then i + p.anB else i) .zero), fill := 0,
            avg := (List.range (m / 2 + 1)).map avg, slot0 := u.slot0, slot1 := u.slot1, kernel := kernel,
            dly := (g.dly ++ v).drop p.anB } ∧
          ∀ i < p.anB, t.sm.read (s.opA + i) = ⟨(g.dly ++ v).getD i .zero, .zero⟩)

/-! ## The orchestrator (spec/47_orchestrator.md) -/

/-- What PIPERX may change (R29, R86, R401, R411, R498): the `R0` cells from `A2`; the bank but its transmit state and what its chain,
demodulator and notch latched; telemetry, of which the S-meter, the audio RMS, the gain and the bins are bank 0's; and a stage that
is switched off, or does not run in the mode (the notch in `DGT_C`, R407), keeps its state. -/
def Obligations.PiperxFrame : Prop :=
  ∀ (s t : State) (id : Nat), s.sm.wf = true → s.configOk = true → exec (.piperx id) s = .next t →
    s.BankFrame t id s.op2 t.r0.toNat ∧ (t.chan id).achRate = (s.chan id).achRate ∧
    (t.bank id).tx = (s.bank id).tx ∧
    (t.bank id).chain = { (s.bank id).chain with stages := (t.bank id).chain.stages } ∧
    (t.bank id).demod.valid = (s.bank id).demod.valid ∧ (t.bank id).demod.mode = (s.bank id).demod.mode ∧
    (t.bank id).demod.inRate = (s.bank id).demod.inRate ∧ (t.bank id).demod.rxfLower = (s.bank id).demod.rxfLower ∧
    (s.cr.nbLevel = 0 → (t.bank id).nb = (s.bank id).nb) ∧
    (t.bank id).notch.valid = (s.bank id).notch.valid ∧ (t.bank id).notch.fs = (s.bank id).notch.fs ∧
    (id ≠ 0 ∨ s.cr.notchEn = false ∨ s.demodKind id = .digRaw → (t.bank id).notch = (s.bank id).notch ∧
      t.cr.notchBin0 = s.cr.notchBin0 ∧ t.cr.notchBin1 = s.cr.notchBin1) ∧
    ((s.bank id).chain.achRate.eqv (s.bank id).demod.inRate = true → (t.bank id).frac = (s.bank id).frac) ∧
    (id ≠ 0 → t.cr.smeter = s.cr.smeter ∧ t.cr.audioRms = s.cr.audioRms ∧ t.cr.agcGain = s.cr.agcGain)

/-- R401, R412, R413, R448: PIPERX completes when its checks hold, with at most `MAXBLOCK` frames; the key register is sampled once: with
the key down and any frame written, the key machine ends keyed. -/
def Obligations.PiperxCompletes : Prop :=
  ∀ (s : State) (id : Nat), s.cfg.maxBlock < 2 ^ 64 → (∀ c ∈ s.pipeChecks id, c.ok = true) → s.allocOk = true →
    ∃ t frames stages, exec (.piperx id) s = .next t ∧ t.r0 = BitVec.ofNat 64 frames ∧ frames ≤ s.cfg.maxBlock ∧
      t.r1 = 0 ∧ t.cr.status = { code := 0, trunc := decide (stages ≠ 0) } ∧ t.cr.errCnt = s.cr.errCnt ∧
      t.cr.xrunCnt = s.cr.xrunCnt + BitVec.ofNat 32 stages ∧
      (s.cr.keyDown = true → frames ≠ 0 → (t.bank id).key.st = .keyed ∧ (t.bank id).key.n = 0) ∧
      (s.cr.keyDown = false → (s.bank id).key.st = .rx → (t.bank id).key.st = .rx) ∧
      (s.cr.keyDown = false → frames ≠ 0 → (t.bank id).key.st ≠ .keyed)

/-- R400, R401, R403, R405, R407, R409 to R414: what PIPERX writes and leaves, when it reads nothing that is NaN or infinite: the stages
in their order (tune, noise-blank, decimate, fractional correction, demodulate, notch, restore-rate, squelch, AGC, mute and
sidetone), each on what the one before it made, the measurements where they stand between them, every frame of the output, and every
component of the bank. -/
def Obligations.PiperxStages : Prop :=
  ∀ (s : State) (id hz fade hold : Nat) (fl : Int), s.sm.wf = true → s.cfg.maxBlock < 2 ^ 64 →
    (∀ c ∈ s.pipeChecks id, c.ok = true) → s.allocOk = true → s.cfg.rateHz (s.bank id).chain.rateId = some hz →
    s.PipeFinite id →
    (s.cfg.fadeTime.mul (.ofNat (s.cfg.canon * s.cfg.outFactor))).roundHalfUp? = some fl → fade = max 1 fl.toNat →
    (if s.cr.holdDelay.isFinite = false ∨ s.cr.holdDelay.lt .zero = true then hold = 0
     else ∃ hl : Int, (s.cr.holdDelay.mul (.ofNat (s.cfg.canon * s.cfg.outFactor))).roundHalfUp? = some hl ∧ hold = hl.toNat) →
    ((s.bank id).key.st = .fadeIn → (s.bank id).key.n < fade) →
      let k := s.bank id
      let r := s.latchedMode id
      let tuned := s.tunedBlock id hz
      let blank := s.runNb k.nb tuned
      let x2 := if s.cr.nbLevel = 0 then tuned else blank.out
      let chain := s.runDec placeChain k.chain.stages x2
      let fractional := k.chain.achRate.eqv k.demod.inRate = false
      let frac := s.runFrac s.cfg.maxBlock k.frac (k.chain.achRate.div k.demod.inRate) chain.out
      let sig := if fractional then frac.out else chain.out
      let agcBB := s.runAgc k.agc true sig
      let demod := s.runDemod (s.bankRegs id) k.demod s.cfg.maxBlock (if r.agcOnBaseband then agcBB.out else sig)
      let notch := s.runNotch k.notch demod.out
      let restore := s.runInt placeRestore k.demod.int (if s.NotchRuns id then notch.out else demod.out)
      let shut := id = 0 ∧ s.cfg.squelchOpen s.cr.squelchThr sig k.demod.mode = false
      let x7 := if shut then List.replicate restore.out.length .zero else restore.out
      let agcOut := s.runAgc k.agc (decide (r.kind = .digRaw)) x7
      let agc := if r.agcOnBaseband then agcBB else agcOut
      let audio := if r.agcOnBaseband then x7 else agcOut.out
      let mute := k.key.muteAfter hold fade s.cr.keyDown audio.length
      let truncs := bit (decide fractional && frac.trunc) + bit (decide (s.NotchRuns id) && notch.trunc) + bit restore.trunc
      ∃ t, exec (.piperx id) s = .next t ∧ t.r0 = BitVec.ofNat 64 audio.length ∧ t.r1 = 0 ∧
        t.cr = { s.cr with
          status := { code := 0, trunc := decide (truncs ≠ 0) },
          xrunCnt := s.cr.xrunCnt + BitVec.ofNat 32 truncs,
          ovrCnt := s.cr.ovrCnt + BitVec.ofNat 32 agc.clamped,
          agcGain := if id = 0 then agc.st.gain else s.cr.agcGain,
          smeter := if id = 0 then s.cfg.measureSmeter sig else s.cr.smeter,
          audioRms := if id = 0 then s.cfg.measureRms audio else s.cr.audioRms,
          notchBin0 := if s.NotchRuns id then notchBin notch.st.slot0.tgt else s.cr.notchBin0,
          notchBin1 := if s.NotchRuns id then notchBin notch.st.slot1.tgt else s.cr.notchBin1 } ∧
        t.bank id =
          { k with
            mix := mixAfter (s.mixInc id hz) k.mix s.opN
            nb := if s.cr.nbLevel = 0 then k.nb else blank.st
            chain := { k.chain with stages := chain.st }
            frac := if fractional then frac.st else k.frac
            agc := agc.st
            demod := { demod.st with int := restore.st }
            notch := if s.NotchRuns id then notch.st else k.notch
            key := { st := mute.1, n := mute.2, lvl := k.key.levelAfter fade s.cr.keyDown audio.length,
                     tone := k.key.phaseAfter s.cfg fade s.cr.sidetoneFreq s.cr.keyDown audio.length } } ∧
        ∀ q < audio.length,
          let z := audio.getD q .zero
          let frame : Cplx := if r.kind = .digRaw then z else ⟨z.re, z.re⟩
          let gain := k.key.gainAt fade hold s.cr.keyDown q
          let tone := k.key.toneAt s.cfg fade s.cr.sidetoneFreq s.cr.keyDown s.cr.keyTone q
          t.sm.read (s.op2 + q) = ⟨(frame.re.mul gain).add tone, (frame.im.mul gain).add tone⟩

/-- R401, R402, R416: PIPERX is its commands. On a bank that receives with the key up, without codec, with the AGC on the audio, and
with no squelch (another bank than 0, or one always open), PIPERX writes what the commands NBRUN, CHRUN, FRAC when the rates differ,
DEMOD, ANRUN when the notch runs, RESTORE and AGCRUN, in this order, leave in its output buffer when that buffer holds the tuned
block (R403) before them, each frame on both channels when the audio is real; and it leaves the bank and the counters as they do. The
gain 1 and the silent sidetone stand in the frames as written. (A FRAC step of at least 1 makes no more samples than it takes, which
the command's extent requires, log 30.) -/
def Obligations.PiperxIsItsCommands : Prop :=
  ∀ (s : State) (id hz : Nat), s.sm.wf = true → s.configOk = true → (∀ c ∈ s.pipeChecks id, c.ok = true) → s.allocs = [] →
    s.cfg.rateHz (s.bank id).chain.rateId = some hz → s.PipeFinite id →
    let k := s.bank id
    let r := s.latchedMode id
    let step := k.chain.achRate.div k.demod.inRate
    let f := s.cr.sidetoneFreq.abs
    let y := (s.runDec placeChain k.chain.stages
      (if s.cr.nbLevel = 0 then s.tunedBlock id hz else (s.runNb k.nb (s.tunedBlock id hz)).out)).out
    let shifted := { k with mix := mixAfter (s.mixInc id hz) k.mix s.opN }
    let start := { (s.setBank id shifted) with
      sm := s.sm.writeBlock s.op2 (s.tunedBlock id hz), a0 := s.a2, a2 := step.bits }
    let commands :=
      [.nbrun id, .chrun id] ++ (if k.chain.achRate.eqv k.demod.inRate then [] else [.frac id]) ++ [.demod id] ++
        (if s.NotchRuns id then [.anrun id] else []) ++ [.restore id, .agcrun (decide (r.kind = .digRaw)) id]
    k.key.st = .rx → k.key.lvl = 0 → s.cr.keyDown = false → r.kind ≠ .dv → r.agcOnBaseband = false →
    (1 ≤ id ∨ s.cfg.squelch = some true) →
    (∀ x ∈ k.demod.int, match x with
      | .hb h => h.variant = audioOf r.kind
      | .fir g _ => g.variant = audioOf r.kind) →
    (k.chain.achRate.eqv k.demod.inRate = false →
      step.lt .one = true ∨ (s.runFrac s.cfg.maxBlock k.frac step y).out.length ≤ y.length) →
    (s.NotchRuns id → f.eqv .zero = true ∨ (((f.mul (.ofNat s.cfg.anNfft)).div k.notch.fs).roundHalfUp?).isSome = true) →
      ∃ t u, exec (.piperx id) s = .next t ∧ start.inSequence commands = some u ∧ t.r0 = u.r0 ∧
        (∀ q < t.r0.toNat,
          let z := u.sm.read (s.op2 + q)
          let frame : Cplx := if r.kind = .digRaw then z else ⟨z.re, z.re⟩
          t.sm.read (s.op2 + q) = ⟨(frame.re.mul .one).add .zero, (frame.im.mul .one).add .zero⟩) ∧
        t.bank id = { u.bank id with
          key := { k.key with tone := if t.r0 = 0 then k.key.tone else .zero } } ∧
        t.cr.ovrCnt = u.cr.ovrCnt ∧ t.cr.agcGain = u.cr.agcGain ∧ t.cr.xrunCnt = u.cr.xrunCnt ∧
        t.cr.notchBin0 = u.cr.notchBin0 ∧ t.cr.notchBin1 = u.cr.notchBin1

/-- R420, R421: the words `0x0000iiii` are NOP, which clears `STATUS`, `R0`, `R1` and does nothing else, whatever its `ID`. The words
`0xF000iiii` are BKFREE; it gives an existing bank, whatever it holds, its reset value and clears its achieved rate, and the notch
bins when it is bank 0; it changes nothing else but `STATUS`, `R0`, `R1`. Another bank is `E_PARAM`. -/
def Obligations.HousekeepingCommands : Prop :=
  (∀ id < 65536, decode (BitVec.ofNat 32 id) = some (.nop id) ∧
    decode (BitVec.ofNat 32 (0xF0000000 + id)) = some (.bkfree id)) ∧
  ∀ (s : State) (id : Nat),
    (∃ t, exec (.nop id) s = .next t ∧
      t = { s with r0 := 0, r1 := 0, cr := { s.cr with status := { code := 0, trunc := false } }, draws := t.draws }) ∧
    (s.nbanks ≤ id → ∃ t, exec (.bkfree id) s = .next t ∧ State.Raised s t 5 0) ∧
    (id < s.nbanks →
      ∃ t, exec (.bkfree id) s = .next t ∧
        t = { s with
          r0 := 0, r1 := 0, chans := t.chans, draws := t.draws,
          cr := { s.cr with
            status := { code := 0, trunc := false }
            notchBin0 := if id = 0 then 0xFFFFFFFF else s.cr.notchBin0
            notchBin1 := if id = 0 then 0xFFFFFFFF else s.cr.notchBin1 } } ∧
        t.bank id = State.reset.bank 0 ∧ t.bankRegs id = s.bankRegs id ∧ (t.chan id).achRate = .zero ∧
        t.nbanks = s.nbanks ∧ ∀ j, j ≠ id → t.chan j = s.chan j)
end

