-- ==== Sys2Proof/Laws/Mem.lean ====
section
/-! SUPPORT. Sample memory: what a read gives after a write, and that every operation keeps the canonical form. -/

namespace Sys2Proof.Machine

/-! ### Reading after writing -/

theorem Mem.read_cons (a b : Nat) (v : Cplx) (m : Mem) (h : ∀ c ∈ m, c.1 ≠ a) :
    Mem.read (Mem.cons a v m) b = if b = a then v else Mem.read m b := by
  have miss : ∀ m : Mem, (∀ c ∈ m, c.1 ≠ a) → Mem.read m a = unwritten := by
    intro m h
    induction m with
    | nil => rfl
    | cons c m ih =>
      have hc := h c (by simp)
      simp only [Mem.read]
      rw [if_neg (Ne.symm hc)]
      exact ih fun d hd => h d (by simp [hd])
  unfold Mem.cons
  by_cases hv : v = unwritten
  · rw [if_pos hv]
    by_cases hb : b = a
    · rw [if_pos hb, hb, miss m h, hv]
    · rw [if_neg hb]
  · rw [if_neg hv]
    rfl

/-- In a canonical memory every address beyond the head is larger. -/
theorem Mem.wf_tail_gt {a : Nat} {v : Cplx} {m : Mem} (h : Mem.wf ((a, v) :: m) = true) : ∀ c ∈ m, a < c.1 := by
  induction m generalizing a v with
  | nil => simp
  | cons c m ih =>
    obtain ⟨b, w⟩ := c
    simp only [Mem.wf, List.head?_cons, Option.all_some, Bool.and_eq_true, decide_eq_true_eq] at h
    intro d hd
    rcases List.mem_cons.mp hd with rfl | hd
    · exact h.1.2
    · exact Nat.lt_trans h.1.2 (ih (a := b) (v := w) (by simpa [Mem.wf] using h.2) d hd)

theorem Mem.wf_tail {c : Nat × Cplx} {m : Mem} (h : Mem.wf (c :: m) = true) : Mem.wf m = true := by
  obtain ⟨a, v⟩ := c
  simp only [Mem.wf, Bool.and_eq_true] at h
  exact h.2

theorem Mem.wf_head {a : Nat} {v : Cplx} {m : Mem} (h : Mem.wf ((a, v) :: m) = true) : v ≠ unwritten := by
  simp only [Mem.wf, Bool.and_eq_true, decide_eq_true_eq] at h
  exact h.1.1

/-- What a canonical list is, from its parts. -/
theorem Mem.wf_mk {a : Nat} {v : Cplx} {m : Mem} (hv : v ≠ unwritten) (h : ∀ c ∈ m, a < c.1) (hm : Mem.wf m = true) :
    Mem.wf ((a, v) :: m) = true := by
  have head : (m.head?.all fun c => decide (a < c.1)) = true := by
    cases m with
    | nil => rfl
    | cons c m => simpa using h c (by simp)
  simp [Mem.wf, hv, head, hm]

theorem Mem.wf_cons {a : Nat} {v : Cplx} {m : Mem} (h : ∀ c ∈ m, a < c.1) (hm : Mem.wf m = true) :
    Mem.wf (Mem.cons a v m) = true := by
  unfold Mem.cons
  by_cases hv : v = unwritten
  · rw [if_pos hv]
    exact hm
  · rw [if_neg hv]
    exact Mem.wf_mk hv h hm

theorem Mem.mem_cons_fst {a : Nat} {v : Cplx} {m : Mem} {c : Nat × Cplx} (h : c ∈ Mem.cons a v m) : c.1 = a ∨ c ∈ m := by
  unfold Mem.cons at h
  split at h
  · exact .inr h
  · rcases List.mem_cons.mp h with rfl | h
    · exact .inl rfl
    · exact .inr h

/-- A write lists at most one new address. -/
theorem Mem.mem_write {a : Nat} {v : Cplx} {m : Mem} {c : Nat × Cplx} (h : c ∈ Mem.write a v m) :
    c.1 = a ∨ c ∈ m := by
  induction m with
  | nil => exact Mem.mem_cons_fst h
  | cons d m ih =>
    obtain ⟨b, w⟩ := d
    simp only [Mem.write] at h
    split at h
    · exact Mem.mem_cons_fst h
    · split at h
      · rcases Mem.mem_cons_fst h with h | h
        · exact .inl h
        · exact .inr (by simp [h])
      · rcases List.mem_cons.mp h with rfl | h
        · exact .inr (by simp)
        · rcases ih h with h | h
          · exact .inl h
          · exact .inr (by simp [h])

/-- Writing keeps the canonical form. -/
theorem Mem.wf_write (a : Nat) (v : Cplx) (m : Mem) (h : Mem.wf m = true) : Mem.wf (Mem.write a v m) = true := by
  induction m with
  | nil => exact Mem.wf_cons (by simp) rfl
  | cons d m ih =>
    obtain ⟨b, w⟩ := d
    have gt := Mem.wf_tail_gt h
    simp only [Mem.write]
    split
    · rename_i hab
      refine Mem.wf_cons ?_ h
      intro c hc
      rcases List.mem_cons.mp hc with rfl | hc
      · exact hab
      · exact Nat.lt_trans hab (gt c hc)
    · split
      · rename_i hab
        exact Mem.wf_cons (by rw [hab]; exact gt) (Mem.wf_tail h)
      · rename_i h1 h2
        refine Mem.wf_mk (Mem.wf_head h) ?_ (ih (Mem.wf_tail h))
        intro c hc
        rcases Mem.mem_write hc with h3 | h3
        · omega
        · exact gt c h3

/-- A read after a write gives the value written at its address, and what was there at any other. -/
theorem Mem.read_write (a b : Nat) (v : Cplx) (m : Mem) (h : Mem.wf m = true) :
    Mem.read (Mem.write a v m) b = if b = a then v else Mem.read m b := by
  induction m with
  | nil => exact Mem.read_cons a b v [] (by simp)
  | cons d m ih =>
    obtain ⟨c, w⟩ := d
    have gt := Mem.wf_tail_gt h
    simp only [Mem.write]
    split
    · rename_i hac
      refine Mem.read_cons a b v _ ?_
      intro e he
      rcases List.mem_cons.mp he with rfl | he
      · exact Ne.symm (Nat.ne_of_lt hac)
      · have := gt e he
        omega
    · split
      · rename_i _ hac
        rw [Mem.read_cons a b v m fun e he => by have := gt e he; omega]
        by_cases hb : b = a
        · rw [if_pos hb, if_pos hb]
        · rw [if_neg hb, if_neg hb]
          simp only [Mem.read]
          rw [if_neg (by omega)]
      · rename_i h1 h2
        simp only [Mem.read]
        rw [ih (Mem.wf_tail h)]
        by_cases hbc : b = c
        · rw [if_pos hbc, if_pos hbc, if_neg (by omega)]
        · rw [if_neg hbc, if_neg hbc]

theorem Mem.wf_writeBlock (a : Nat) (vs : List Cplx) (m : Mem) (h : Mem.wf m = true) :
    Mem.wf (Mem.writeBlock m a vs) = true := by
  induction vs generalizing a m with
  | nil => exact h
  | cons v vs ih => exact ih (a + 1) _ (Mem.wf_write a v m h)

/-- A block write touches only its own cells. -/
theorem Mem.read_writeBlock (a b : Nat) (vs : List Cplx) (m : Mem) (h : Mem.wf m = true) :
    Mem.read (Mem.writeBlock m a vs) b = if a ≤ b ∧ b < a + vs.length then vs.getD (b - a) .zero else Mem.read m b := by
  induction vs generalizing a m with
  | nil =>
    rw [if_neg (by simp)]
    rfl
  | cons v vs ih =>
    simp only [Mem.writeBlock]
    rw [ih (a + 1) _ (Mem.wf_write a v m h), Mem.read_write a b v m h]
    simp only [List.length_cons]
    by_cases h1 : b = a
    · subst h1
      rw [if_neg (by omega), if_pos rfl, if_pos (by omega)]
      simp
    · by_cases h2 : a + 1 ≤ b ∧ b < a + 1 + vs.length
      · rw [if_pos h2, if_pos (by omega)]
        obtain ⟨k, hk⟩ : ∃ k, b - a = k + 1 := ⟨b - a - 1, by omega⟩
        rw [hk, show b - (a + 1) = k by omega]
        simp
      · rw [if_neg h2, if_neg h1, if_neg (by omega)]

theorem Mem.mem_writeBlock {a : Nat} {vs : List Cplx} {m : Mem} {c : Nat × Cplx} (h : c ∈ Mem.writeBlock m a vs) :
    (a ≤ c.1 ∧ c.1 < a + vs.length) ∨ c ∈ m := by
  induction vs generalizing a m with
  | nil => exact .inr h
  | cons v vs ih =>
    simp only [List.length_cons]
    rcases ih h with h | h
    · left
      omega
    · rcases Mem.mem_write h with h | h
      · left
        omega
      · exact .inr h

@[simp] theorem Mem.readBlock_length (m : Mem) (a n : Nat) : (Mem.readBlock m a n).length = n := by
  simp [Mem.readBlock]

theorem Mem.readBlock_getD (m : Mem) (a n i : Nat) (h : i < n) : (Mem.readBlock m a n).getD i .zero = Mem.read m (a + i) := by
  simp [Mem.readBlock, h]

/-- Two memories that agree on the cells of a block give the same block. -/
theorem Mem.readBlock_congr (m m' : Mem) (a n : Nat) (h : ∀ i < n, m.read (a + i) = m'.read (a + i)) :
    m.readBlock a n = m'.readBlock a n := by
  simp only [Mem.readBlock]
  exact List.map_congr_left fun i hi => h i (List.mem_range.mp hi)

/-- The memory after reset is canonical. -/
theorem State.reset_wf : State.reset.sm.wf = true := rfl

end Sys2Proof.Machine
end

