-- ==== Sys2Proof/Laws/State.lean ====
section
/-! SUPPORT. What each update of the state does to each field: one lemma per field per update, true by `rfl`. -/

namespace Sys2Proof.Machine

/-! ### `State.setFilter` -/

@[simp] theorem State.setFilter_a0 (s : State) (i : Nat) (f : FilterInst) : (s.setFilter i f).a0 = s.a0 := rfl
@[simp] theorem State.setFilter_a1 (s : State) (i : Nat) (f : FilterInst) : (s.setFilter i f).a1 = s.a1 := rfl
@[simp] theorem State.setFilter_a2 (s : State) (i : Nat) (f : FilterInst) : (s.setFilter i f).a2 = s.a2 := rfl
@[simp] theorem State.setFilter_a3 (s : State) (i : Nat) (f : FilterInst) : (s.setFilter i f).a3 = s.a3 := rfl
@[simp] theorem State.setFilter_r0 (s : State) (i : Nat) (f : FilterInst) : (s.setFilter i f).r0 = s.r0 := rfl
@[simp] theorem State.setFilter_r1 (s : State) (i : Nat) (f : FilterInst) : (s.setFilter i f).r1 = s.r1 := rfl
@[simp] theorem State.setFilter_cr (s : State) (i : Nat) (f : FilterInst) : (s.setFilter i f).cr = s.cr := rfl
@[simp] theorem State.setFilter_ct (s : State) (i : Nat) (f : FilterInst) : (s.setFilter i f).ct = s.ct := rfl
@[simp] theorem State.setFilter_sm (s : State) (i : Nat) (f : FilterInst) : (s.setFilter i f).sm = s.sm := rfl
@[simp] theorem State.setFilter_fi (s : State) (i : Nat) (f : FilterInst) : (s.setFilter i f).fi = s.fi.set i f := rfl
@[simp] theorem State.setFilter_hb (s : State) (i : Nat) (f : FilterInst) : (s.setFilter i f).hb = s.hb := rfl
@[simp] theorem State.setFilter_chans (s : State) (i : Nat) (f : FilterInst) : (s.setFilter i f).chans = s.chans := rfl
@[simp] theorem State.setFilter_cfg (s : State) (i : Nat) (f : FilterInst) : (s.setFilter i f).cfg = s.cfg := rfl
@[simp] theorem State.setFilter_host (s : State) (i : Nat) (f : FilterInst) : (s.setFilter i f).host = s.host := rfl
@[simp] theorem State.setFilter_reply (s : State) (i : Nat) (f : FilterInst) : (s.setFilter i f).reply = s.reply := rfl
@[simp] theorem State.setFilter_allocs (s : State) (i : Nat) (f : FilterInst) : (s.setFilter i f).allocs = s.allocs := rfl
@[simp] theorem State.setFilter_draws (s : State) (i : Nat) (f : FilterInst) : (s.setFilter i f).draws = s.draws := rfl

/-! ### `State.setHalf` -/

@[simp] theorem State.setHalf_a0 (s : State) (i : Nat) (h : HBInst) : (s.setHalf i h).a0 = s.a0 := rfl
@[simp] theorem State.setHalf_a1 (s : State) (i : Nat) (h : HBInst) : (s.setHalf i h).a1 = s.a1 := rfl
@[simp] theorem State.setHalf_a2 (s : State) (i : Nat) (h : HBInst) : (s.setHalf i h).a2 = s.a2 := rfl
@[simp] theorem State.setHalf_a3 (s : State) (i : Nat) (h : HBInst) : (s.setHalf i h).a3 = s.a3 := rfl
@[simp] theorem State.setHalf_r0 (s : State) (i : Nat) (h : HBInst) : (s.setHalf i h).r0 = s.r0 := rfl
@[simp] theorem State.setHalf_r1 (s : State) (i : Nat) (h : HBInst) : (s.setHalf i h).r1 = s.r1 := rfl
@[simp] theorem State.setHalf_cr (s : State) (i : Nat) (h : HBInst) : (s.setHalf i h).cr = s.cr := rfl
@[simp] theorem State.setHalf_ct (s : State) (i : Nat) (h : HBInst) : (s.setHalf i h).ct = s.ct := rfl
@[simp] theorem State.setHalf_sm (s : State) (i : Nat) (h : HBInst) : (s.setHalf i h).sm = s.sm := rfl
@[simp] theorem State.setHalf_fi (s : State) (i : Nat) (h : HBInst) : (s.setHalf i h).fi = s.fi := rfl
@[simp] theorem State.setHalf_hb (s : State) (i : Nat) (h : HBInst) : (s.setHalf i h).hb = s.hb.set i h := rfl
@[simp] theorem State.setHalf_chans (s : State) (i : Nat) (h : HBInst) : (s.setHalf i h).chans = s.chans := rfl
@[simp] theorem State.setHalf_cfg (s : State) (i : Nat) (h : HBInst) : (s.setHalf i h).cfg = s.cfg := rfl
@[simp] theorem State.setHalf_host (s : State) (i : Nat) (h : HBInst) : (s.setHalf i h).host = s.host := rfl
@[simp] theorem State.setHalf_reply (s : State) (i : Nat) (h : HBInst) : (s.setHalf i h).reply = s.reply := rfl
@[simp] theorem State.setHalf_allocs (s : State) (i : Nat) (h : HBInst) : (s.setHalf i h).allocs = s.allocs := rfl
@[simp] theorem State.setHalf_draws (s : State) (i : Nat) (h : HBInst) : (s.setHalf i h).draws = s.draws := rfl

/-! ### `State.setBank` -/

@[simp] theorem State.setBank_a0 (s : State) (b : Nat) (k : Bank) : (s.setBank b k).a0 = s.a0 := rfl
@[simp] theorem State.setBank_a1 (s : State) (b : Nat) (k : Bank) : (s.setBank b k).a1 = s.a1 := rfl
@[simp] theorem State.setBank_a2 (s : State) (b : Nat) (k : Bank) : (s.setBank b k).a2 = s.a2 := rfl
@[simp] theorem State.setBank_a3 (s : State) (b : Nat) (k : Bank) : (s.setBank b k).a3 = s.a3 := rfl
@[simp] theorem State.setBank_r0 (s : State) (b : Nat) (k : Bank) : (s.setBank b k).r0 = s.r0 := rfl
@[simp] theorem State.setBank_r1 (s : State) (b : Nat) (k : Bank) : (s.setBank b k).r1 = s.r1 := rfl
@[simp] theorem State.setBank_cr (s : State) (b : Nat) (k : Bank) : (s.setBank b k).cr = s.cr := rfl
@[simp] theorem State.setBank_ct (s : State) (b : Nat) (k : Bank) : (s.setBank b k).ct = s.ct := rfl
@[simp] theorem State.setBank_sm (s : State) (b : Nat) (k : Bank) : (s.setBank b k).sm = s.sm := rfl
@[simp] theorem State.setBank_fi (s : State) (b : Nat) (k : Bank) : (s.setBank b k).fi = s.fi := rfl
@[simp] theorem State.setBank_hb (s : State) (b : Nat) (k : Bank) : (s.setBank b k).hb = s.hb := rfl
@[simp] theorem State.setBank_chans (s : State) (b : Nat) (k : Bank) : (s.setBank b k).chans = s.chans.set b { s.chan b with bank := k } := rfl
@[simp] theorem State.setBank_cfg (s : State) (b : Nat) (k : Bank) : (s.setBank b k).cfg = s.cfg := rfl
@[simp] theorem State.setBank_host (s : State) (b : Nat) (k : Bank) : (s.setBank b k).host = s.host := rfl
@[simp] theorem State.setBank_reply (s : State) (b : Nat) (k : Bank) : (s.setBank b k).reply = s.reply := rfl
@[simp] theorem State.setBank_allocs (s : State) (b : Nat) (k : Bank) : (s.setBank b k).allocs = s.allocs := rfl
@[simp] theorem State.setBank_draws (s : State) (b : Nat) (k : Bank) : (s.setBank b k).draws = s.draws := rfl

/-! ### `State.setAchRate` -/

@[simp] theorem State.setAchRate_a0 (s : State) (b : Nat) (x : Real64) : (s.setAchRate b x).a0 = s.a0 := rfl
@[simp] theorem State.setAchRate_a1 (s : State) (b : Nat) (x : Real64) : (s.setAchRate b x).a1 = s.a1 := rfl
@[simp] theorem State.setAchRate_a2 (s : State) (b : Nat) (x : Real64) : (s.setAchRate b x).a2 = s.a2 := rfl
@[simp] theorem State.setAchRate_a3 (s : State) (b : Nat) (x : Real64) : (s.setAchRate b x).a3 = s.a3 := rfl
@[simp] theorem State.setAchRate_r0 (s : State) (b : Nat) (x : Real64) : (s.setAchRate b x).r0 = s.r0 := rfl
@[simp] theorem State.setAchRate_r1 (s : State) (b : Nat) (x : Real64) : (s.setAchRate b x).r1 = s.r1 := rfl
@[simp] theorem State.setAchRate_cr (s : State) (b : Nat) (x : Real64) : (s.setAchRate b x).cr = s.cr := rfl
@[simp] theorem State.setAchRate_ct (s : State) (b : Nat) (x : Real64) : (s.setAchRate b x).ct = s.ct := rfl
@[simp] theorem State.setAchRate_sm (s : State) (b : Nat) (x : Real64) : (s.setAchRate b x).sm = s.sm := rfl
@[simp] theorem State.setAchRate_fi (s : State) (b : Nat) (x : Real64) : (s.setAchRate b x).fi = s.fi := rfl
@[simp] theorem State.setAchRate_hb (s : State) (b : Nat) (x : Real64) : (s.setAchRate b x).hb = s.hb := rfl
@[simp] theorem State.setAchRate_chans (s : State) (b : Nat) (x : Real64) : (s.setAchRate b x).chans = s.chans.set b { s.chan b with achRate := x } := rfl
@[simp] theorem State.setAchRate_cfg (s : State) (b : Nat) (x : Real64) : (s.setAchRate b x).cfg = s.cfg := rfl
@[simp] theorem State.setAchRate_host (s : State) (b : Nat) (x : Real64) : (s.setAchRate b x).host = s.host := rfl
@[simp] theorem State.setAchRate_reply (s : State) (b : Nat) (x : Real64) : (s.setAchRate b x).reply = s.reply := rfl
@[simp] theorem State.setAchRate_allocs (s : State) (b : Nat) (x : Real64) : (s.setAchRate b x).allocs = s.allocs := rfl
@[simp] theorem State.setAchRate_draws (s : State) (b : Nat) (x : Real64) : (s.setAchRate b x).draws = s.draws := rfl

/-! ### `State.raise` -/

@[simp] theorem State.raise_a0 (s : State) (e : Err) (w : Word64) : (s.raise e w).a0 = s.a0 := rfl
@[simp] theorem State.raise_a1 (s : State) (e : Err) (w : Word64) : (s.raise e w).a1 = s.a1 := rfl
@[simp] theorem State.raise_a2 (s : State) (e : Err) (w : Word64) : (s.raise e w).a2 = s.a2 := rfl
@[simp] theorem State.raise_a3 (s : State) (e : Err) (w : Word64) : (s.raise e w).a3 = s.a3 := rfl
@[simp] theorem State.raise_r0 (s : State) (e : Err) (w : Word64) : (s.raise e w).r0 = 0 := rfl
@[simp] theorem State.raise_r1 (s : State) (e : Err) (w : Word64) : (s.raise e w).r1 = w := rfl
@[simp] theorem State.raise_cr (s : State) (e : Err) (w : Word64) : (s.raise e w).cr = { s.cr with status := .ofErr e, errCnt := s.cr.errCnt + 1 } := rfl
@[simp] theorem State.raise_ct (s : State) (e : Err) (w : Word64) : (s.raise e w).ct = s.ct := rfl
@[simp] theorem State.raise_sm (s : State) (e : Err) (w : Word64) : (s.raise e w).sm = s.sm := rfl
@[simp] theorem State.raise_fi (s : State) (e : Err) (w : Word64) : (s.raise e w).fi = s.fi := rfl
@[simp] theorem State.raise_hb (s : State) (e : Err) (w : Word64) : (s.raise e w).hb = s.hb := rfl
@[simp] theorem State.raise_chans (s : State) (e : Err) (w : Word64) : (s.raise e w).chans = s.chans := rfl
@[simp] theorem State.raise_cfg (s : State) (e : Err) (w : Word64) : (s.raise e w).cfg = s.cfg := rfl
@[simp] theorem State.raise_host (s : State) (e : Err) (w : Word64) : (s.raise e w).host = s.host := rfl
@[simp] theorem State.raise_reply (s : State) (e : Err) (w : Word64) : (s.raise e w).reply = s.reply := rfl
@[simp] theorem State.raise_allocs (s : State) (e : Err) (w : Word64) : (s.raise e w).allocs = s.allocs := rfl
@[simp] theorem State.raise_draws (s : State) (e : Err) (w : Word64) : (s.raise e w).draws = s.draws := rfl

/-! ### `State.consulted` -/

@[simp] theorem State.consulted_a0 (s : State) : (s.consulted).a0 = s.a0 := rfl
@[simp] theorem State.consulted_a1 (s : State) : (s.consulted).a1 = s.a1 := rfl
@[simp] theorem State.consulted_a2 (s : State) : (s.consulted).a2 = s.a2 := rfl
@[simp] theorem State.consulted_a3 (s : State) : (s.consulted).a3 = s.a3 := rfl
@[simp] theorem State.consulted_r0 (s : State) : (s.consulted).r0 = s.r0 := rfl
@[simp] theorem State.consulted_r1 (s : State) : (s.consulted).r1 = s.r1 := rfl
@[simp] theorem State.consulted_cr (s : State) : (s.consulted).cr = s.cr := rfl
@[simp] theorem State.consulted_ct (s : State) : (s.consulted).ct = s.ct := rfl
@[simp] theorem State.consulted_sm (s : State) : (s.consulted).sm = s.sm := rfl
@[simp] theorem State.consulted_fi (s : State) : (s.consulted).fi = s.fi := rfl
@[simp] theorem State.consulted_hb (s : State) : (s.consulted).hb = s.hb := rfl
@[simp] theorem State.consulted_chans (s : State) : (s.consulted).chans = s.chans := rfl
@[simp] theorem State.consulted_cfg (s : State) : (s.consulted).cfg = s.cfg := rfl
@[simp] theorem State.consulted_host (s : State) : (s.consulted).host = s.host := rfl
@[simp] theorem State.consulted_reply (s : State) : (s.consulted).reply = s.reply := rfl
@[simp] theorem State.consulted_allocs (s : State) : (s.consulted).allocs = s.allocs.tail := rfl
@[simp] theorem State.consulted_draws (s : State) : (s.consulted).draws = s.draws := rfl

/-! ### `State.finish` -/

@[simp] theorem State.finish_a0 (s : State) (x y : Word64) (n : Nat) : (s.finish x y n).a0 = s.a0 := rfl
@[simp] theorem State.finish_a1 (s : State) (x y : Word64) (n : Nat) : (s.finish x y n).a1 = s.a1 := rfl
@[simp] theorem State.finish_a2 (s : State) (x y : Word64) (n : Nat) : (s.finish x y n).a2 = s.a2 := rfl
@[simp] theorem State.finish_a3 (s : State) (x y : Word64) (n : Nat) : (s.finish x y n).a3 = s.a3 := rfl
@[simp] theorem State.finish_r0 (s : State) (x y : Word64) (n : Nat) : (s.finish x y n).r0 = x := rfl
@[simp] theorem State.finish_r1 (s : State) (x y : Word64) (n : Nat) : (s.finish x y n).r1 = y := rfl
@[simp] theorem State.finish_cr (s : State) (x y : Word64) (n : Nat) : (s.finish x y n).cr = { s.cr with status := .ofTrunc (decide (n ≠ 0)), xrunCnt := s.cr.xrunCnt + BitVec.ofNat 32 n } := rfl
@[simp] theorem State.finish_ct (s : State) (x y : Word64) (n : Nat) : (s.finish x y n).ct = s.ct := rfl
@[simp] theorem State.finish_sm (s : State) (x y : Word64) (n : Nat) : (s.finish x y n).sm = s.sm := rfl
@[simp] theorem State.finish_fi (s : State) (x y : Word64) (n : Nat) : (s.finish x y n).fi = s.fi := rfl
@[simp] theorem State.finish_hb (s : State) (x y : Word64) (n : Nat) : (s.finish x y n).hb = s.hb := rfl
@[simp] theorem State.finish_chans (s : State) (x y : Word64) (n : Nat) : (s.finish x y n).chans = s.chans := rfl
@[simp] theorem State.finish_cfg (s : State) (x y : Word64) (n : Nat) : (s.finish x y n).cfg = s.cfg := rfl
@[simp] theorem State.finish_host (s : State) (x y : Word64) (n : Nat) : (s.finish x y n).host = s.host := rfl
@[simp] theorem State.finish_reply (s : State) (x y : Word64) (n : Nat) : (s.finish x y n).reply = s.reply := rfl
@[simp] theorem State.finish_allocs (s : State) (x y : Word64) (n : Nat) : (s.finish x y n).allocs = s.allocs := rfl
@[simp] theorem State.finish_draws (s : State) (x y : Word64) (n : Nat) : (s.finish x y n).draws = s.draws + 1 := rfl

/-! ### `State.finishInit` -/

@[simp] theorem State.finishInit_a0 (s : State) : (s.finishInit).a0 = s.a0 := rfl
@[simp] theorem State.finishInit_a1 (s : State) : (s.finishInit).a1 = s.a1 := rfl
@[simp] theorem State.finishInit_a2 (s : State) : (s.finishInit).a2 = s.a2 := rfl
@[simp] theorem State.finishInit_a3 (s : State) : (s.finishInit).a3 = s.a3 := rfl
@[simp] theorem State.finishInit_r0 (s : State) : (s.finishInit).r0 = 0 := rfl
@[simp] theorem State.finishInit_r1 (s : State) : (s.finishInit).r1 = 0 := rfl
@[simp] theorem State.finishInit_cr (s : State) : (s.finishInit).cr = { s.cr with status := .ofTrunc (decide (0 ≠ 0)), xrunCnt := s.cr.xrunCnt + BitVec.ofNat 32 0 } := rfl
@[simp] theorem State.finishInit_ct (s : State) : (s.finishInit).ct = s.ct := rfl
@[simp] theorem State.finishInit_sm (s : State) : (s.finishInit).sm = s.sm := rfl
@[simp] theorem State.finishInit_fi (s : State) : (s.finishInit).fi = s.fi := rfl
@[simp] theorem State.finishInit_hb (s : State) : (s.finishInit).hb = s.hb := rfl
@[simp] theorem State.finishInit_chans (s : State) : (s.finishInit).chans = s.chans := rfl
@[simp] theorem State.finishInit_cfg (s : State) : (s.finishInit).cfg = s.cfg := rfl
@[simp] theorem State.finishInit_host (s : State) : (s.finishInit).host = s.host := rfl
@[simp] theorem State.finishInit_reply (s : State) : (s.finishInit).reply = s.reply := rfl
@[simp] theorem State.finishInit_allocs (s : State) : (s.finishInit).allocs = s.allocs := rfl
@[simp] theorem State.finishInit_draws (s : State) : (s.finishInit).draws = s.draws + 1 := rfl

/-! ### `State.finishBuf` -/

@[simp] theorem State.finishBuf_a0 (s : State) (a : Nat) (o : List Cplx) (n : Nat) : (s.finishBuf a o n).a0 = s.a0 := rfl
@[simp] theorem State.finishBuf_a1 (s : State) (a : Nat) (o : List Cplx) (n : Nat) : (s.finishBuf a o n).a1 = s.a1 := rfl
@[simp] theorem State.finishBuf_a2 (s : State) (a : Nat) (o : List Cplx) (n : Nat) : (s.finishBuf a o n).a2 = s.a2 := rfl
@[simp] theorem State.finishBuf_a3 (s : State) (a : Nat) (o : List Cplx) (n : Nat) : (s.finishBuf a o n).a3 = s.a3 := rfl
@[simp] theorem State.finishBuf_r0 (s : State) (a : Nat) (o : List Cplx) (n : Nat) : (s.finishBuf a o n).r0 = BitVec.ofNat 64 o.length := rfl
@[simp] theorem State.finishBuf_r1 (s : State) (a : Nat) (o : List Cplx) (n : Nat) : (s.finishBuf a o n).r1 = 0 := rfl
@[simp] theorem State.finishBuf_cr (s : State) (a : Nat) (o : List Cplx) (n : Nat) : (s.finishBuf a o n).cr = { s.cr with status := .ofTrunc (decide (n ≠ 0)), xrunCnt := s.cr.xrunCnt + BitVec.ofNat 32 n } := rfl
@[simp] theorem State.finishBuf_ct (s : State) (a : Nat) (o : List Cplx) (n : Nat) : (s.finishBuf a o n).ct = s.ct := rfl
@[simp] theorem State.finishBuf_sm (s : State) (a : Nat) (o : List Cplx) (n : Nat) : (s.finishBuf a o n).sm = s.sm.writeBlock a o := rfl
@[simp] theorem State.finishBuf_fi (s : State) (a : Nat) (o : List Cplx) (n : Nat) : (s.finishBuf a o n).fi = s.fi := rfl
@[simp] theorem State.finishBuf_hb (s : State) (a : Nat) (o : List Cplx) (n : Nat) : (s.finishBuf a o n).hb = s.hb := rfl
@[simp] theorem State.finishBuf_chans (s : State) (a : Nat) (o : List Cplx) (n : Nat) : (s.finishBuf a o n).chans = s.chans := rfl
@[simp] theorem State.finishBuf_cfg (s : State) (a : Nat) (o : List Cplx) (n : Nat) : (s.finishBuf a o n).cfg = s.cfg := rfl
@[simp] theorem State.finishBuf_host (s : State) (a : Nat) (o : List Cplx) (n : Nat) : (s.finishBuf a o n).host = s.host := rfl
@[simp] theorem State.finishBuf_reply (s : State) (a : Nat) (o : List Cplx) (n : Nat) : (s.finishBuf a o n).reply = s.reply := rfl
@[simp] theorem State.finishBuf_allocs (s : State) (a : Nat) (o : List Cplx) (n : Nat) : (s.finishBuf a o n).allocs = s.allocs := rfl
@[simp] theorem State.finishBuf_draws (s : State) (a : Nat) (o : List Cplx) (n : Nat) : (s.finishBuf a o n).draws = s.draws + 1 := rfl

/-! ### `State.resetAction` -/

@[simp] theorem State.resetAction_a0 (s : State) : (s.resetAction).a0 = 0 := rfl
@[simp] theorem State.resetAction_a1 (s : State) : (s.resetAction).a1 = 0 := rfl
@[simp] theorem State.resetAction_a2 (s : State) : (s.resetAction).a2 = 0 := rfl
@[simp] theorem State.resetAction_a3 (s : State) : (s.resetAction).a3 = 0 := rfl
@[simp] theorem State.resetAction_r0 (s : State) : (s.resetAction).r0 = 0 := rfl
@[simp] theorem State.resetAction_r1 (s : State) : (s.resetAction).r1 = 0 := rfl
@[simp] theorem State.resetAction_cr (s : State) : (s.resetAction).cr = {} := rfl
@[simp] theorem State.resetAction_ct (s : State) : (s.resetAction).ct = List.replicate s.ntab none := rfl
@[simp] theorem State.resetAction_sm (s : State) : (s.resetAction).sm = [] := rfl
@[simp] theorem State.resetAction_fi (s : State) : (s.resetAction).fi = List.replicate s.nfilt {} := rfl
@[simp] theorem State.resetAction_hb (s : State) : (s.resetAction).hb = List.replicate s.nhb {} := rfl
@[simp] theorem State.resetAction_chans (s : State) : (s.resetAction).chans = List.replicate s.nbanks {} := rfl
@[simp] theorem State.resetAction_cfg (s : State) : (s.resetAction).cfg = s.cfg := rfl
@[simp] theorem State.resetAction_host (s : State) : (s.resetAction).host = s.host := rfl
@[simp] theorem State.resetAction_reply (s : State) : (s.resetAction).reply = .none := rfl
@[simp] theorem State.resetAction_allocs (s : State) : (s.resetAction).allocs = s.allocs := rfl
@[simp] theorem State.resetAction_draws (s : State) : (s.resetAction).draws = s.draws := rfl

/-! ### `State.queueCommand` -/

@[simp] theorem State.queueCommand_a0 (s : State) (w : Word32) : (s.queueCommand w).a0 = s.a0 := rfl
@[simp] theorem State.queueCommand_a1 (s : State) (w : Word32) : (s.queueCommand w).a1 = s.a1 := rfl
@[simp] theorem State.queueCommand_a2 (s : State) (w : Word32) : (s.queueCommand w).a2 = s.a2 := rfl
@[simp] theorem State.queueCommand_a3 (s : State) (w : Word32) : (s.queueCommand w).a3 = s.a3 := rfl
@[simp] theorem State.queueCommand_r0 (s : State) (w : Word32) : (s.queueCommand w).r0 = s.r0 := rfl
@[simp] theorem State.queueCommand_r1 (s : State) (w : Word32) : (s.queueCommand w).r1 = s.r1 := rfl
@[simp] theorem State.queueCommand_cr (s : State) (w : Word32) : (s.queueCommand w).cr = s.cr := rfl
@[simp] theorem State.queueCommand_ct (s : State) (w : Word32) : (s.queueCommand w).ct = s.ct := rfl
@[simp] theorem State.queueCommand_sm (s : State) (w : Word32) : (s.queueCommand w).sm = s.sm := rfl
@[simp] theorem State.queueCommand_fi (s : State) (w : Word32) : (s.queueCommand w).fi = s.fi := rfl
@[simp] theorem State.queueCommand_hb (s : State) (w : Word32) : (s.queueCommand w).hb = s.hb := rfl
@[simp] theorem State.queueCommand_chans (s : State) (w : Word32) : (s.queueCommand w).chans = s.chans := rfl
@[simp] theorem State.queueCommand_cfg (s : State) (w : Word32) : (s.queueCommand w).cfg = s.cfg := rfl
@[simp] theorem State.queueCommand_host (s : State) (w : Word32) : (s.queueCommand w).host = .issueCmd w :: s.host := rfl
@[simp] theorem State.queueCommand_reply (s : State) (w : Word32) : (s.queueCommand w).reply = s.reply := rfl
@[simp] theorem State.queueCommand_allocs (s : State) (w : Word32) : (s.queueCommand w).allocs = s.allocs := rfl
@[simp] theorem State.queueCommand_draws (s : State) (w : Word32) : (s.queueCommand w).draws = s.draws := rfl

/-! ### Counts of instances, banks and table slots -/

@[simp] theorem State.setFilter_nfilt (s : State) (i : Nat) (f : FilterInst) : (s.setFilter i f).nfilt = s.nfilt := by simp [State.nfilt]
@[simp] theorem State.setFilter_nhb (s : State) (i : Nat) (f : FilterInst) : (s.setFilter i f).nhb = s.nhb := rfl
@[simp] theorem State.setFilter_nbanks (s : State) (i : Nat) (f : FilterInst) : (s.setFilter i f).nbanks = s.nbanks := rfl
@[simp] theorem State.setFilter_ntab (s : State) (i : Nat) (f : FilterInst) : (s.setFilter i f).ntab = s.ntab := rfl
@[simp] theorem State.setHalf_nfilt (s : State) (i : Nat) (h : HBInst) : (s.setHalf i h).nfilt = s.nfilt := rfl
@[simp] theorem State.setHalf_nhb (s : State) (i : Nat) (h : HBInst) : (s.setHalf i h).nhb = s.nhb := by simp [State.nhb]
@[simp] theorem State.setHalf_nbanks (s : State) (i : Nat) (h : HBInst) : (s.setHalf i h).nbanks = s.nbanks := rfl
@[simp] theorem State.setHalf_ntab (s : State) (i : Nat) (h : HBInst) : (s.setHalf i h).ntab = s.ntab := rfl
@[simp] theorem State.setBank_nfilt (s : State) (b : Nat) (k : Bank) : (s.setBank b k).nfilt = s.nfilt := rfl
@[simp] theorem State.setBank_nhb (s : State) (b : Nat) (k : Bank) : (s.setBank b k).nhb = s.nhb := rfl
@[simp] theorem State.setBank_nbanks (s : State) (b : Nat) (k : Bank) : (s.setBank b k).nbanks = s.nbanks := by simp [State.nbanks]
@[simp] theorem State.setBank_ntab (s : State) (b : Nat) (k : Bank) : (s.setBank b k).ntab = s.ntab := rfl
@[simp] theorem State.setAchRate_nfilt (s : State) (b : Nat) (x : Real64) : (s.setAchRate b x).nfilt = s.nfilt := rfl
@[simp] theorem State.setAchRate_nhb (s : State) (b : Nat) (x : Real64) : (s.setAchRate b x).nhb = s.nhb := rfl
@[simp] theorem State.setAchRate_nbanks (s : State) (b : Nat) (x : Real64) : (s.setAchRate b x).nbanks = s.nbanks := by simp [State.nbanks]
@[simp] theorem State.setAchRate_ntab (s : State) (b : Nat) (x : Real64) : (s.setAchRate b x).ntab = s.ntab := rfl
@[simp] theorem State.raise_nfilt (s : State) (e : Err) (w : Word64) : (s.raise e w).nfilt = s.nfilt := rfl
@[simp] theorem State.raise_nhb (s : State) (e : Err) (w : Word64) : (s.raise e w).nhb = s.nhb := rfl
@[simp] theorem State.raise_nbanks (s : State) (e : Err) (w : Word64) : (s.raise e w).nbanks = s.nbanks := rfl
@[simp] theorem State.raise_ntab (s : State) (e : Err) (w : Word64) : (s.raise e w).ntab = s.ntab := rfl
@[simp] theorem State.consulted_nfilt (s : State) : (s.consulted).nfilt = s.nfilt := rfl
@[simp] theorem State.consulted_nhb (s : State) : (s.consulted).nhb = s.nhb := rfl
@[simp] theorem State.consulted_nbanks (s : State) : (s.consulted).nbanks = s.nbanks := rfl
@[simp] theorem State.consulted_ntab (s : State) : (s.consulted).ntab = s.ntab := rfl
@[simp] theorem State.finish_nfilt (s : State) (x y : Word64) (n : Nat) : (s.finish x y n).nfilt = s.nfilt := rfl
@[simp] theorem State.finish_nhb (s : State) (x y : Word64) (n : Nat) : (s.finish x y n).nhb = s.nhb := rfl
@[simp] theorem State.finish_nbanks (s : State) (x y : Word64) (n : Nat) : (s.finish x y n).nbanks = s.nbanks := rfl
@[simp] theorem State.finish_ntab (s : State) (x y : Word64) (n : Nat) : (s.finish x y n).ntab = s.ntab := rfl
@[simp] theorem State.finishInit_nfilt (s : State) : (s.finishInit).nfilt = s.nfilt := rfl
@[simp] theorem State.finishInit_nhb (s : State) : (s.finishInit).nhb = s.nhb := rfl
@[simp] theorem State.finishInit_nbanks (s : State) : (s.finishInit).nbanks = s.nbanks := rfl
@[simp] theorem State.finishInit_ntab (s : State) : (s.finishInit).ntab = s.ntab := rfl
@[simp] theorem State.finishBuf_nfilt (s : State) (a : Nat) (o : List Cplx) (n : Nat) : (s.finishBuf a o n).nfilt = s.nfilt := rfl
@[simp] theorem State.finishBuf_nhb (s : State) (a : Nat) (o : List Cplx) (n : Nat) : (s.finishBuf a o n).nhb = s.nhb := rfl
@[simp] theorem State.finishBuf_nbanks (s : State) (a : Nat) (o : List Cplx) (n : Nat) : (s.finishBuf a o n).nbanks = s.nbanks := rfl
@[simp] theorem State.finishBuf_ntab (s : State) (a : Nat) (o : List Cplx) (n : Nat) : (s.finishBuf a o n).ntab = s.ntab := rfl
@[simp] theorem State.resetAction_nfilt (s : State) : (s.resetAction).nfilt = s.nfilt := by simp [State.nfilt]
@[simp] theorem State.resetAction_nhb (s : State) : (s.resetAction).nhb = s.nhb := by simp [State.nhb]
@[simp] theorem State.resetAction_nbanks (s : State) : (s.resetAction).nbanks = s.nbanks := by simp [State.nbanks]
@[simp] theorem State.resetAction_ntab (s : State) : (s.resetAction).ntab = s.ntab := by simp [State.ntab]
@[simp] theorem State.queueCommand_nfilt (s : State) (w : Word32) : (s.queueCommand w).nfilt = s.nfilt := rfl
@[simp] theorem State.queueCommand_nhb (s : State) (w : Word32) : (s.queueCommand w).nhb = s.nhb := rfl
@[simp] theorem State.queueCommand_nbanks (s : State) (w : Word32) : (s.queueCommand w).nbanks = s.nbanks := rfl
@[simp] theorem State.queueCommand_ntab (s : State) (w : Word32) : (s.queueCommand w).ntab = s.ntab := rfl

/-! ### What a lookup reads after an update -/

theorem State.filter_setFilter_self (s : State) (i : Nat) (f : FilterInst) (h : i < s.nfilt) :
    (s.setFilter i f).filter i = f := by
  have h' : i < s.fi.length := h
  simp [State.filter, h']

theorem State.filter_setFilter_ne (s : State) (i j : Nat) (f : FilterInst) (h : j ≠ i) :
    (s.setFilter i f).filter j = s.filter j := by
  simp [State.filter, Ne.symm h]

theorem State.half_setHalf_self (s : State) (i : Nat) (x : HBInst) (h : i < s.nhb) : (s.setHalf i x).half i = x := by
  have h' : i < s.hb.length := h
  simp [State.half, h']

theorem State.half_setHalf_ne (s : State) (i j : Nat) (x : HBInst) (h : j ≠ i) : (s.setHalf i x).half j = s.half j := by
  simp [State.half, Ne.symm h]

theorem State.chan_setBank_self (s : State) (b : Nat) (k : Bank) (h : b < s.nbanks) :
    (s.setBank b k).chan b = { s.chan b with bank := k } := by
  have h' : b < s.chans.length := h
  simp [State.chan, h']

theorem State.chan_setBank_ne (s : State) (b c : Nat) (k : Bank) (h : c ≠ b) : (s.setBank b k).chan c = s.chan c := by
  simp [State.chan, Ne.symm h]

theorem State.chan_setAchRate_self (s : State) (b : Nat) (x : Real64) (h : b < s.nbanks) :
    (s.setAchRate b x).chan b = { s.chan b with achRate := x } := by
  have h' : b < s.chans.length := h
  simp [State.chan, h']

theorem State.chan_setAchRate_ne (s : State) (b c : Nat) (x : Real64) (h : c ≠ b) :
    (s.setAchRate b x).chan c = s.chan c := by
  simp [State.chan, Ne.symm h]

/-- A bank's registers and achieved rate survive a write to its bundle. -/
theorem State.bankRegs_setBank (s : State) (b c : Nat) (k : Bank) : (s.setBank b k).bankRegs c = s.bankRegs c := by
  by_cases h : c = b
  · subst h
    by_cases h' : c < s.chans.length
    · simp [State.bankRegs, State.chan, h']
    · simp [State.bankRegs, State.chan, List.set_eq_of_length_le (Nat.le_of_not_lt h')]
  · simp [State.bankRegs, State.chan_setBank_ne s b c k h]

end Sys2Proof.Machine
end

