-- ==== Sys2Proof/Laws/Ops.lean ====
section
/-! SUPPORT. What each shared operation of a command can do, once: the ordered checks, the oracle, the two ends. -/

namespace Sys2Proof.Machine

/-- `firstFail` finds nothing exactly when every check holds. -/
theorem firstFail_eq_none (cs : List Check) : firstFail cs = none ↔ ∀ c ∈ cs, c.ok = true := by
  induction cs with
  | nil => simp [firstFail]
  | cons c cs ih =>
    unfold firstFail
    cases hc : c.ok <;> simp [hc, ih]

/-- What `firstFail` answers belongs to a check of the list that fails. -/
theorem firstFail_eq_some {cs : List Check} {e : Err} {w : Word64} (h : firstFail cs = some (e, w)) :
    ∃ c ∈ cs, c.ok = false ∧ c.err = e ∧ c.info = w := by
  induction cs with
  | nil => simp [firstFail] at h
  | cons c cs ih =>
    unfold firstFail at h
    cases hc : c.ok with
    | true =>
      rw [hc] at h
      obtain ⟨d, hd, h⟩ := ih (by simpa using h)
      exact ⟨d, by simp [hd], h⟩
    | false =>
      rw [hc] at h
      simp only [Bool.false_eq_true, if_false, Option.some.injEq, Prod.mk.injEq] at h
      exact ⟨c, by simp, hc, h.1, h.2⟩

/-- A check that fails after a list of checks that all hold is the one reported. -/
theorem firstFail_append (cs ds : List Check) (h : ∀ c ∈ cs, c.ok = true) : firstFail (cs ++ ds) = firstFail ds := by
  induction cs with
  | nil => rfl
  | cons c cs ih =>
    have hc : c.ok = true := h c (by simp)
    simp only [List.cons_append, firstFail, hc, if_true]
    exact ih fun d hd => h d (by simp [hd])

/-- A command whose checks all hold goes on. -/
theorem State.checked_pass {s : State} {cs : List Check} {k : State → Res} (h : ∀ c ∈ cs, c.ok = true) :
    s.checked cs k = k s := by
  simp [State.checked, (firstFail_eq_none cs).mpr h]

/-- A command whose first failing check is `(e, w)` raises it. -/
theorem State.checked_fail {s : State} {cs : List Check} {k : State → Res} {e : Err} {w : Word64}
    (h : firstFail cs = some (e, w)) : s.checked cs k = .next (s.raise e w) := by
  simp [State.checked, h]

/-- All that a checked command can do: raise, with the state before it otherwise kept, or go on. -/
theorem State.checked_cases (s : State) (cs : List Check) (k : State → Res) :
    (∃ e w, firstFail cs = some (e, w) ∧ s.checked cs k = .next (s.raise e w)) ∨
      ((∀ c ∈ cs, c.ok = true) ∧ s.checked cs k = k s) := by
  cases h : firstFail cs with
  | some p => exact .inl ⟨p.1, p.2, rfl, by simp [State.checked, h]⟩
  | none => exact .inr ⟨(firstFail_eq_none cs).mp h, by simp [State.checked, h]⟩

/-- All that consulting the oracle can do. -/
theorem State.allocating_cases (s : State) (need : Bool) (k : State → Res) :
    (need = false ∧ s.allocating need k = k s) ∨
      (need = true ∧ s.allocOk = true ∧ s.allocating need k = k s.consulted) ∨
      (need = true ∧ s.allocOk = false ∧ s.allocating need k = .next (s.consulted.raise .alloc 0)) := by
  cases need <;> cases h : s.allocOk <;> simp [State.allocating, h]

/-- A command goes on when the oracle, if it is consulted, answers success. -/
theorem State.allocating_pass {s : State} {need : Bool} {k : State → Res} (h : need = true → s.allocOk = true) :
    s.allocating need k = k (if need then s.consulted else s) := by
  cases need
  · rfl
  · simp [State.allocating, h rfl]

/-- The bounds check, on the unbounded integers. -/
theorem State.boundsCheck_ok (s : State) (base : Word64) (e : Nat) :
    (s.boundsCheck base e).ok = true ↔ base.toNat + e ≤ s.cfg.smSize := by
  simp [State.boundsCheck]

theorem State.sizeCheck_ok (s : State) : s.sizeCheck.ok = true ↔ s.opN ≤ s.cfg.maxBlock := by
  simp [State.sizeCheck]

theorem idCheck_ok (id count : Nat) : (idCheck id count).ok = true ↔ id < count := by
  simp [idCheck]

theorem boundCheck_ok (b : Bool) (id : Nat) : (boundCheck b id).ok = b := rfl

/-- The table a bound instance resolves has its length. -/
theorem State.coefs_length {s : State} {f : FilterInst} (h : (s.tableCheck f).ok = true) :
    (s.coefs f).length = f.taps := by
  simp only [State.tableCheck] at h
  obtain ⟨t, ht⟩ := Option.isSome_iff_exists.mp h
  have := (Option.filter_eq_some_iff.mp ht).2
  simp only [State.coefs, ht, Option.map_some, Option.getD_some]
  simpa using this

/-- A command on real data writes real samples; the number of samples stays. -/
@[simp] theorem outputAs_length (v : Variant) (y : List Cplx) : (outputAs v y).length = y.length := by
  cases v <;> simp [outputAs]

/-- Real data has no imaginary part. -/
theorem outputAs_real_im (y : List Cplx) : ∀ z ∈ outputAs .real y, z.im = .zero := by
  intro z hz
  obtain ⟨x, _, rfl⟩ := List.mem_map.mp hz
  rfl

@[simp] theorem State.input_length (s : State) (v : Variant) : (s.input v).length = s.opN := by
  cases v <;> simp [State.input]

/-- A bank's registers number their own homes. -/
theorem crHome_bankReg (nbanks b k : Nat) (hb : b < nbanks) (hk : k < 8) :
    crHome nbanks (0x100 + 8 * b + k) = .perBank b k := by
  unfold crHome
  rw [if_pos (by omega), show (0x100 + 8 * b + k - 0x100) / 8 = b by omega,
    show (0x100 + 8 * b + k - 0x100) % 8 = k by omega]

end Sys2Proof.Machine
end

