-- ==== Sys2Proof/Laws/Free.lean ====
section
/-! SUPPORT. What replacing values by free values keeps: lengths, the sample type, the entries that were not written. -/

namespace Sys2Proof.Machine

@[simp] theorem freeSamples_length (ser : Nat) (p : Place) (v : Variant) (w : Nat → Bool) (l : List Cplx) :
    (freeSamples ser p v w l).length = l.length := by
  simp [freeSamples]

@[simp] theorem freeReals_length (ser : Nat) (p : Place) (w : Nat → Bool) (l : List Real64) :
    (freeReals ser p w l).length = l.length := by
  simp [freeReals]

/-- An entry that was not written keeps its value. -/
theorem freeSamples_getD_kept (ser : Nat) (p : Place) (v : Variant) (w : Nat → Bool) (l : List Cplx) (i : Nat)
    (h : w i = false) : (freeSamples ser p v w l).getD i .zero = l.getD i .zero := by
  simp only [freeSamples, List.getD_eq_getElem?_getD, List.getElem?_mapIdx]
  cases hl : l[i]? <;> simp [h]

/-- A real sequence stays one. -/
theorem freeSamples_real_im (ser : Nat) (p : Place) (w : Nat → Bool) (l : List Cplx) (h : ∀ z ∈ l, z.im = .zero) :
    ∀ z ∈ freeSamples ser p .real w l, z.im = .zero := by
  intro z hz
  obtain ⟨i, hi, rfl⟩ := List.mem_mapIdx.mp hz
  split
  · rfl
  · exact h _ (List.getElem_mem hi)

@[simp] theorem emitted_length (ser : Nat) (v : Variant) (bad : Bool) (out : List Cplx) :
    (emitted ser v bad out).length = out.length := by
  cases bad <;> simp [emitted]

/-- Without a value that is not finite the outputs are what the rules compute. -/
@[simp] theorem emitted_finite (ser : Nat) (v : Variant) (out : List Cplx) : emitted ser v false out = outputAs v out := rfl

@[simp] theorem Run.commit_false {σ : Type} (r : Run σ) : r.commit false = r.st := rfl
@[simp] theorem Run.commit_true {σ : Type} (r : Run σ) : r.commit true = r.freed := rfl

end Sys2Proof.Machine
end

