-- ==== Sys2Proof/Laws/Loops.lean ====
section
/-! SUPPORT. What each sample loop can leave: how many outputs, and which fields of its component it keeps. -/

namespace Sys2Proof.Machine

/-! ### Filters -/

/-- Everything of an instance but its history and cursor. -/
def FilterInst.sameShape (f g : FilterInst) : Prop :=
  g.bound = f.bound ∧ g.variant = f.variant ∧ g.tab = f.tab ∧ g.taps = f.taps ∧ g.tuned = f.tuned ∧ g.scap = f.scap ∧
    g.hist.length = f.hist.length

theorem FilterInst.sameShape_put_advance (f : FilterInst) (x : Cplx) (ph : Nat) :
    f.sameShape ((f.put x).withPhase ph).advance := by
  simp [FilterInst.sameShape, FilterInst.put, FilterInst.advance, FilterInst.withPhase]

theorem FilterInst.sameShape_trans {f g h : FilterInst} (a : f.sameShape g) (b : g.sameShape h) : f.sameShape h := by
  obtain ⟨a1, a2, a3, a4, a5, a6, a7⟩ := a
  obtain ⟨b1, b2, b3, b4, b5, b6, b7⟩ := b
  exact ⟨b1.trans a1, b2.trans a2, b3.trans a3, b4.trans a4, b5.trans a5, b6.trans a6, b7.trans a7⟩

theorem FilterInst.sameShape_refl (f : FilterInst) : f.sameShape f := ⟨rfl, rfl, rfl, rfl, rfl, rfl, rfl⟩

/-- FAPPLY's loop: one output per input, the shape and the phase kept. -/
theorem firApply_spec (tb : List Real64) (f : FilterInst) (x : List Cplx) :
    (firApply tb f x).out.length = x.length ∧ (firApply tb f x).eaten = x.length ∧ (firApply tb f x).trunc = false ∧
      f.sameShape (firApply tb f x).f ∧ (firApply tb f x).f.phase = f.phase := by
  induction x generalizing f with
  | nil => exact ⟨rfl, rfl, rfl, f.sameShape_refl, rfl⟩
  | cons a x ih =>
    obtain ⟨h1, h2, h3, h4, h5⟩ := ih (f.put a).advance
    exact ⟨by simp [firApply, FirLoop.after, h1, Nat.add_comm], by simp [firApply, FirLoop.after, h2], h3,
      FilterInst.sameShape_trans (f.sameShape_put_advance a f.phase) h4, h5⟩

/-- FDECIM's loop: never more outputs than inputs, the shape kept. -/
theorem firDecim_spec (tb : List Real64) (ratio : Nat) (f : FilterInst) (x : List Cplx) :
    (firDecim tb ratio f x).out.length ≤ x.length ∧ (firDecim tb ratio f x).eaten = x.length ∧
      (firDecim tb ratio f x).trunc = false ∧ f.sameShape (firDecim tb ratio f x).f := by
  induction x generalizing f with
  | nil => exact ⟨Nat.le_refl 0, rfl, rfl, f.sameShape_refl⟩
  | cons a x ih =>
    unfold firDecim
    dsimp only
    split
    · obtain ⟨h1, h2, h3, h4⟩ := ih ((f.put a).withPhase 0).advance
      refine ⟨?_, by simp [FirLoop.after, h2], h3, FilterInst.sameShape_trans (f.sameShape_put_advance a _) h4⟩
      simp only [FirLoop.after, List.length_append, List.length_cons, List.length_nil]
      omega
    · obtain ⟨h1, h2, h3, h4⟩ := ih ((f.put a).withPhase ((f.put a).phase + 1)).advance
      refine ⟨?_, by simp [FirLoop.after, h2], h3,
        FilterInst.sameShape_trans (f.sameShape_put_advance a _) h4⟩
      simp only [FirLoop.after, List.length_append, List.length_cons, List.length_nil]
      omega

/-- FINTERP's loop: at most `room` outputs, the shape and the phase kept. -/
theorem firInterp_spec (tb : List Real64) (ratio room : Nat) (f : FilterInst) (x : List Cplx) :
    (firInterp tb ratio room f x).out.length ≤ room ∧ (firInterp tb ratio room f x).out.length ≤ ratio * x.length ∧
      f.sameShape (firInterp tb ratio room f x).f ∧ (firInterp tb ratio room f x).f.phase = f.phase := by
  induction x generalizing f room with
  | nil => exact ⟨Nat.zero_le _, Nat.zero_le _, f.sameShape_refl, rfl⟩
  | cons a x ih =>
    unfold firInterp
    split
    · exact ⟨Nat.zero_le _, Nat.zero_le _, f.sameShape_refl, rfl⟩
    · obtain ⟨h1, h2, h3, h4⟩ := ih (room - ratio) (f.put a).advance
      have hp : ((f.put a).polyphase tb ratio).length = ratio := by simp [FilterInst.polyphase]
      refine ⟨?_, ?_, FilterInst.sameShape_trans (f.sameShape_put_advance a f.phase) h3, h4⟩
      · simp only [FirLoop.after, List.length_append, hp]
        omega
      · simp only [FirLoop.after, List.length_append, hp, List.length_cons, Nat.mul_succ]
        omega

/-- FRESAMP's loop: at most `room` outputs, the shape kept. -/
theorem firResamp_spec (tb : List Real64) (interp decim room : Nat) (f : FilterInst) (x : List Cplx) :
    (firResamp tb interp decim room f x).out.length ≤ room ∧ f.sameShape (firResamp tb interp decim room f x).f := by
  induction x generalizing f room with
  | nil => exact ⟨Nat.zero_le _, f.sameShape_refl⟩
  | cons a x ih =>
    unfold firResamp
    dsimp only
    split
    · exact ⟨Nat.zero_le _, f.sameShape_refl⟩
    · obtain ⟨h1, h2⟩ := ih (room - resampCount f.phase interp decim)
        ((f.put a).withPhase ((f.put a).phase + resampCount f.phase interp decim * decim - interp)).advance
      refine ⟨?_, FilterInst.sameShape_trans (f.sameShape_put_advance a _) h2⟩
      simp only [FirLoop.after, List.length_append, FilterInst.resampOuts, List.length_map, List.length_range]
      omega

/-! ### Half-bands -/

theorem HBInst.push_win_length (i : HBInst) (x : Cplx) (h : i.win.length = 45) : (i.push x).win.length = 45 := by
  simp [HBInst.push, h]

/-- HBDEC2's loop: never more outputs than inputs; the window stays 45 long, the rest of the instance but the toggle is kept. -/
theorem hbDec2_spec (h : List Real64) (i : HBInst) (x : List Cplx) (hw : i.win.length = 45) :
    (hbDec2 h i x).out.length ≤ x.length ∧ (hbDec2 h i x).eaten = x.length ∧ (hbDec2 h i x).trunc = false ∧
      (hbDec2 h i x).i.win.length = 45 ∧ (hbDec2 h i x).i.bound = i.bound ∧ (hbDec2 h i x).i.variant = i.variant := by
  induction x generalizing i with
  | nil => exact ⟨Nat.le_refl 0, rfl, rfl, hw, rfl, rfl⟩
  | cons a x ih =>
    have hp := i.push_win_length a hw
    unfold hbDec2
    dsimp only
    split
    · obtain ⟨h1, h2, h3, h4, h5, h6⟩ := ih ((i.push a).withToggle false) hp
      refine ⟨?_, by simp [HbLoop.after, h2], h3, h4, h5, h6⟩
      simp only [HbLoop.after, List.length_append, List.length_cons, List.length_nil]
      omega
    · obtain ⟨h1, h2, h3, h4, h5, h6⟩ := ih ((i.push a).withToggle true) hp
      refine ⟨?_, by simp [HbLoop.after, h2], h3, h4, h5, h6⟩
      simp only [HbLoop.after, List.length_append, List.length_cons, List.length_nil]
      omega

/-- HBINT2's loop: at most `room` outputs and two per input; the toggle is kept too. -/
theorem hbInt2_spec (h : List Real64) (room : Nat) (i : HBInst) (x : List Cplx) (hw : i.win.length = 45) :
    (hbInt2 h room i x).out.length ≤ room ∧ (hbInt2 h room i x).out.length ≤ 2 * x.length ∧
      (hbInt2 h room i x).i.win.length = 45 ∧ (hbInt2 h room i x).i.bound = i.bound ∧
      (hbInt2 h room i x).i.variant = i.variant ∧ (hbInt2 h room i x).i.toggle = i.toggle := by
  induction x generalizing i room with
  | nil => exact ⟨Nat.zero_le _, Nat.zero_le _, hw, rfl, rfl, rfl⟩
  | cons a x ih =>
    unfold hbInt2
    split
    · exact ⟨Nat.zero_le _, Nat.zero_le _, hw, rfl, rfl, rfl⟩
    · obtain ⟨h1, h2, h3, h4, h5, h6⟩ := ih (room - 2) (i.push a) (i.push_win_length a hw)
      refine ⟨?_, ?_, h3, h4, h5, h6⟩
      · simp only [HbLoop.after, List.length_append, List.length_cons, List.length_nil]
        omega
      · simp only [HbLoop.after, List.length_append, List.length_cons, List.length_nil]
        omega

/-! ### The other loops -/

theorem fracInner_length (step : Real64) (room : Nat) (f : FracState) : (fracInner step room f).out.length ≤ room := by
  induction room generalizing f with
  | zero => exact Nat.le_refl 0
  | succ room ih =>
    unfold fracInner
    split
    · exact Nat.succ_le_succ (ih _)
    · exact Nat.zero_le _

/-- FRAC's loop: at most `room` outputs. -/
theorem fracLoop_length (step : Real64) (room : Nat) (f : FracState) (x : List Cplx) :
    (fracLoop step room f x).out.length ≤ room := by
  induction x generalizing f room with
  | nil => exact Nat.zero_le _
  | cons a x ih =>
    have h1 := fracInner_length step room (f.shift a)
    unfold fracLoop
    dsimp only
    split
    · exact h1
    · simp only [List.length_append]
      have h2 := ih (room - (fracInner step room (f.shift a)).out.length)
        ((fracInner step room (f.shift a)).f.withMu ((fracInner step room (f.shift a)).f.mu.sub .one))
      omega

/-- DEMOD's sample loop: one output per sample. -/
theorem demodLoop_length (p : Params) (r : ModeRec) (tb : List Real64) (u : Bool) (d : DemodState) (x : List Cplx) :
    (demodLoop p r tb u d x).out.length = x.length := by
  induction x generalizing d with
  | nil => rfl
  | cons a x ih => simp [demodLoop, ih]

/-- AGCRUN's loop: one output per sample. -/
theorem agcLoop_length (p : Params) (cx : Bool) (mo rg : Real64) (g : AGCState) (x : List Cplx) :
    (agcLoop p cx mo rg g x).out.length = x.length := by
  induction x generalizing g with
  | nil => rfl
  | cons a x ih => simp [agcLoop, ih]

/-- NBRUN's loop: one output per sample. -/
theorem nbLoop_length (p : Params) (thr : Real64) (w : List Bool) (b : NBState) (x : List Cplx) :
    (nbLoop p thr w b x).out.length = x.length := by
  induction x generalizing b w with
  | nil => rfl
  | cons a x ih => simp [nbLoop, ih]

/-- The extra delay keeps the number of samples, and the line its length. -/
theorem delayLine_length (d x : List Real64) :
    (delayLine d x).1.length = d.length ∧ (delayLine d x).2.length = x.length := by
  induction x generalizing d with
  | nil => cases d <;> exact ⟨rfl, rfl⟩
  | cons a x ih =>
    cases d with
    | nil => exact ⟨(ih []).1, by simp [delayLine, (ih []).2]⟩
    | cons b d =>
      have h := ih (d ++ [a])
      exact ⟨by simpa [delayLine] using h.1, by simp [delayLine, h.2]⟩

/-- A completed hop has `AN_B` outputs. -/
theorem NotchState.hop_length (p : Params) (ks : Option Int) (t : NotchState) : (t.hop p ks).2.length = p.anB := by
  simp [NotchState.hop, (delayLine_length _ _).2, hopOutput]

/-- ANRUN's loop: at most `room` outputs. -/
theorem notchLoop_length (p : Params) (ks : Option Int) (room : Nat) (t : NotchState) (x : List Cplx) :
    (notchLoop p ks room t x).out.length ≤ room := by
  induction x generalizing t room with
  | nil => exact Nat.zero_le _
  | cons a x ih =>
    unfold notchLoop
    dsimp only
    split
    · exact Nat.zero_le _
    · rename_i hcut
      split
      · rename_i hf
        have h1 := ih (room - p.anB) ((t.collect p a.re).hop p ks).1
        have h2 : ¬ room < p.anB := fun h => hcut ⟨by simpa [NotchState.collect] using hf, h⟩
        simp only [List.length_append, List.length_map, NotchState.hop_length]
        omega
      · exact ih room _

/-- The tuning shift: one output per sample. -/
theorem tuneShift_length (p : Params) (inc mix : Real64) (x : List Cplx) :
    (tuneShift p inc mix x).2.length = x.length := by
  induction x generalizing mix with
  | nil => rfl
  | cons a x ih => simp [tuneShift, ih]

/-- Stage 9: one frame per frame. -/
theorem keyLoop_length (p : Params) (c : KeyCfg) (kind : ModeKind) (k : KeyState) (x : List Cplx) :
    (keyLoop p c kind k x).out.length = x.length := by
  induction x generalizing k with
  | nil => rfl
  | cons a x ih => simp [keyLoop, ih]

end Sys2Proof.Machine
end

