-- ==== Sys2Proof/Laws/PerInstr.lean ====
section
/-! SUPPORT. Per instruction: the three fields of its command word (spec/30_encoding.md rules R120, R124, R130). -/

namespace Sys2Proof.Laws.WordFields

/-- The word of a well-formed command: its opcode in bits 31:24, its flag in bit 16 with bits 23:17 zero, its `ID` in bits 15:0. -/
def Statement (i : Instr) : Prop :=
  i.wellFormed = true →
    (encode i).op = i.opcode ∧ (encode i).fl = i.flag.toNat ∧ (encode i).idField = i.id

theorem encode_toNat (i : Instr) (h1 : i.opcode < 256) (h3 : i.id < 65536) :
    (encode i).toNat = (i.opcode * 256 + i.flag.toNat) * 65536 + i.id := by
  have h2 : i.flag.toNat < 2 := by cases i.flag <;> decide
  simp only [encode, BitVec.toNat_ofNat, Nat.reducePow]
  omega

/-- The fields of a word put together from three fields. -/
theorem fields_of_sum (op fl id : Nat) (w : Word32) (h2 : fl < 256) (h3 : id < 65536)
    (h : w.toNat = (op * 256 + fl) * 65536 + id) :
    Word32.op w = op ∧ Word32.fl w = fl ∧ Word32.idField w = id := by
  have h24 : w.toNat / 16777216 = op := by omega
  have h16 : w.toNat / 65536 = op * 256 + fl := by omega
  simp only [Word32.op, Word32.fl, Word32.idField, BitVec.extractLsb'_toNat, Nat.shiftRight_eq_div_pow, Nat.reducePow,
    Nat.div_one, h24, h16]
  omega

/-- The statement for a command whose opcode is a byte. -/
theorem of_opcode (i : Instr) (h : i.opcode < 256) : Statement i := fun hw =>
  fields_of_sum i.opcode i.flag.toNat i.id (encode i) (by cases i.flag <;> decide) (of_decide_eq_true hw)
    (encode_toNat i h (of_decide_eq_true hw))

theorem nop (id : Nat) : Statement (.nop id) := of_opcode _ (by simp [Instr.opcode])
theorem finit (f : Bool) (id : Nat) : Statement (.finit f id) := of_opcode _ (by simp [Instr.opcode])
theorem ftune (f : Bool) (id : Nat) : Statement (.ftune f id) := of_opcode _ (by simp [Instr.opcode])
theorem fapply (id : Nat) : Statement (.fapply id) := of_opcode _ (by simp [Instr.opcode])
theorem fdecim (id : Nat) : Statement (.fdecim id) := of_opcode _ (by simp [Instr.opcode])
theorem finterp (id : Nat) : Statement (.finterp id) := of_opcode _ (by simp [Instr.opcode])
theorem fresamp (id : Nat) : Statement (.fresamp id) := of_opcode _ (by simp [Instr.opcode])
theorem hbinit (f : Bool) (id : Nat) : Statement (.hbinit f id) := of_opcode _ (by simp [Instr.opcode])
theorem hbdec2 (id : Nat) : Statement (.hbdec2 id) := of_opcode _ (by simp [Instr.opcode])
theorem hbint2 (id : Nat) : Statement (.hbint2 id) := of_opcode _ (by simp [Instr.opcode])
theorem chsel (f : Bool) (id : Nat) : Statement (.chsel f id) := of_opcode _ (by simp [Instr.opcode])
theorem chrun (id : Nat) : Statement (.chrun id) := of_opcode _ (by simp [Instr.opcode])
theorem frac (id : Nat) : Statement (.frac id) := of_opcode _ (by simp [Instr.opcode])
theorem dminit (id : Nat) : Statement (.dminit id) := of_opcode _ (by simp [Instr.opcode])
theorem demod (id : Nat) : Statement (.demod id) := of_opcode _ (by simp [Instr.opcode])
theorem restore (id : Nat) : Statement (.restore id) := of_opcode _ (by simp [Instr.opcode])
theorem modinit (id : Nat) : Statement (.modinit id) := of_opcode _ (by simp [Instr.opcode])
theorem mod (id : Nat) : Statement (.mod id) := of_opcode _ (by simp [Instr.opcode])
theorem agcinit (f : Bool) (id : Nat) : Statement (.agcinit f id) := of_opcode _ (by simp [Instr.opcode])
theorem agcrun (f : Bool) (id : Nat) : Statement (.agcrun f id) := of_opcode _ (by simp [Instr.opcode])
theorem nbinit (id : Nat) : Statement (.nbinit id) := of_opcode _ (by simp [Instr.opcode])
theorem nbrun (id : Nat) : Statement (.nbrun id) := of_opcode _ (by simp [Instr.opcode])
theorem aninit (id : Nat) : Statement (.aninit id) := of_opcode _ (by simp [Instr.opcode])
theorem anrun (id : Nat) : Statement (.anrun id) := of_opcode _ (by simp [Instr.opcode])
theorem piperx (id : Nat) : Statement (.piperx id) := of_opcode _ (by simp [Instr.opcode])
theorem bkfree (id : Nat) : Statement (.bkfree id) := of_opcode _ (by simp [Instr.opcode])

end Sys2Proof.Laws.WordFields
end

