-- ==== Sys2Proof/Laws/Pipeline.lean ====
section
/-! SUPPORT. The pipeline of PIPERX: what every stage keeps, the whole pipeline keeps. -/

namespace Sys2Proof.Machine

/-- A property of the working copy that holds at the start and that every stage keeps holds at the end. -/
theorem State.pipe_induction {s : State} {b hz : Nat} {r : ModeRec} {P : Pipe → Prop} (start : P (s.pipeStart b))
    (tune : ∀ p, P p → P (s.pipeTune b hz p)) (blank : ∀ p, P p → P (s.pipeBlank p))
    (chain : ∀ p, P p → P (s.pipeChain p)) (frac : ∀ p, P p → P (s.pipeFrac p))
    (smeter : ∀ p, P p → P (s.pipeSmeter b p)) (agc : ∀ cx p, P p → P (s.pipeAgc b cx p))
    (demod : ∀ p, P p → P (s.pipeDemod b p)) (notch : ∀ p, P p → P (s.pipeNotch b r.kind p))
    (restore : ∀ p, P p → P (s.pipeRestore p)) (squelch : ∀ sig p, P p → P (s.pipeSquelch b sig p))
    (rms : ∀ p, P p → P (s.pipeRms b p)) (key : ∀ p, P p → P (s.pipeKey r.kind p)) (sig : List Cplx) :
    P (s.pipeBack b r sig (s.pipeAudio b r (s.pipeFront b hz))) := by
  have front : P (s.pipeFront b hz) := smeter _ (frac _ (chain _ (blank _ (tune _ start))))
  have audio : P (s.pipeAudio b r (s.pipeFront b hz)) := by
    unfold State.pipeAudio
    dsimp only
    split
    · exact notch _ (demod _ (agc _ _ front))
    · exact notch _ (demod _ front)
  unfold State.pipeBack
  dsimp only
  split
  · exact key _ (rms _ (squelch _ _ (restore _ audio)))
  · exact key _ (rms _ (agc _ _ (squelch _ _ (restore _ audio))))

/-! ### What single stages do -/

@[simp] theorem Pipe.ran_x {σ : Type} (p : Pipe) (r : Run σ) (f : σ → Bank → Bank) : (p.ran r f).x = r.out := rfl
@[simp] theorem Pipe.ran_bank {σ : Type} (p : Pipe) (r : Run σ) (f : σ → Bank → Bank) : (p.ran r f).bank = f r.st p.bank := rfl
@[simp] theorem Pipe.ran_bankFreed {σ : Type} (p : Pipe) (r : Run σ) (f : σ → Bank → Bank) :
    (p.ran r f).bankFreed = f r.freed p.bankFreed := rfl
@[simp] theorem Pipe.ran_cr {σ : Type} (p : Pipe) (r : Run σ) (f : σ → Bank → Bank) : (p.ran r f).cr = p.cr := rfl
@[simp] theorem Pipe.ran_crFreed {σ : Type} (p : Pipe) (r : Run σ) (f : σ → Bank → Bank) : (p.ran r f).crFreed = p.crFreed := rfl

/-- Running the AGC touches `OVR_CNT`, and `AGC_GAIN` on bank 0. -/
theorem CtrlRegs.afterAgc_eq (c : CtrlRegs) (b n : Nat) (g : Real64) :
    c.afterAgc b n g = { c with ovrCnt := c.ovrCnt + BitVec.ofNat 32 n, agcGain := if b = 0 then g else c.agcGain } := rfl

/-- A decimating stage never gives more samples than it takes. -/
theorem State.decStage_length (s : State) (p : Place) (st : StageInst) (x : List Cplx)
    (hw : ∀ i, st = .hb i → i.win.length = 45) : (s.decStage p st x).out.length ≤ x.length := by
  cases st with
  | hb i =>
    have h := (hbDec2_spec s.cfg.hb45 i (outputAs i.variant x) (hw i rfl)).1
    simpa [State.decStage, hbStage, hbRun] using h
  | fir f r =>
    have h := (firDecim_spec (s.coefs f) r f (outputAs f.variant x)).1
    simpa [State.decStage, firStage, firRun] using h

end Sys2Proof.Machine
end

