-- ==== Sys2Proof/Tests/Slice0.lean ====
section
/-! SUPPORT. Tests, with expected results from spec/95_test_vectors.md (its own vector names in the comments), and for every
statement with hypotheses a state that meets them. -/

namespace Sys2Proof.Tests
open Sys2Proof Sys2Proof.Machine

set_option Elab.async false

/-! ## Small states -/

/-- The real sample `n`. -/
def c (n : Nat) : Cplx := .ofReal (.ofNat n)

/-- A complex sample of two natural numbers. -/
def z (a b : Nat) : Cplx := ⟨.ofNat a, .ofNat b⟩

def quarter : Real64 := ⟨0x3FD0000000000000⟩

/-- The state with other argument registers. -/
def args (s : State) (a0 a1 a2 a3 : Word64) : State := { s with a0 := a0, a1 := a1, a2 := a2, a3 := a3 }

/-- The state with samples in memory from cell `a` on, and `A0 = a`, `A1` their number. -/
def block (s : State) (a : Nat) (x : List Cplx) : State :=
  { s with sm := s.sm.writeBlock a x, a0 := BitVec.ofNat 64 a, a1 := BitVec.ofNat 64 x.length }

/-- The state a command leaves, the state before it when it stops. -/
def after (i : Instr) (s : State) : State :=
  match exec i s with
  | .next t => t
  | _ => s

/-- The state one host action leaves. -/
def acted (a : HostAction) (s : State) : State :=
  match step { s with host := [a] } with
  | .next t => t
  | _ => s

/-- The samples of memory. -/
def cells (s : State) (a n : Nat) : List Cplx := (List.range n).map fun k => s.sm.read (a + k)

/-- A command completes. -/
def completes (i : Instr) (s : State) : Bool :=
  match exec i s with
  | .next t => t.cr.status.code == 0
  | _ => false

/-- A command ends with an error's code and info. -/
def raises (i : Instr) (s : State) (code : BitVec 8) (info : Word64) : Bool :=
  match exec i s with
  | .next t => t.cr.status.code == code && t.r1 == info && t.r0 == 0 && t.cr.errCnt == s.cr.errCnt + 1
  | _ => false

/-- A fresh filter instance on a table of three values, and one on a table of two. -/
def fir3 : FilterInst := .fresh .cplx 1 3
def fir2 : FilterInst := .fresh .cplx 3 2

def demod0 (kindMode : Nat) (lower : Bool) (tap : Cplx) : DemodState :=
  { valid := true, mode := kindMode, inRate := .ofNat 12000, rxfTab := 2, rxfLower := lower,
    rxf := { FilterInst.fresh .cplx 2 1 with tuned := some [tap] } }

/-- Everything in use: tables 1, 2, 3, 30, 31, filter and half-band instances 0, all components of bank 0. -/
def busy : State :=
  { State.reset with
    ct := ((((State.reset.ct.set 1 (some ⟨[.ofNat 1, .ofNat 2, .ofNat 3]⟩)).set 2 (some ⟨[.half]⟩)).set 3
      (some ⟨[.ofNat 1, .ofNat 1]⟩)).set 30 (some ⟨[.half, .half]⟩)).set 31 (some ⟨[.half, .half]⟩)
    fi := State.reset.fi.set 0 fir3
    hb := State.reset.hb.set 0 (.fresh .cplx)
    cfg := { State.reset.cfg with txBundle := true }
    cr := { State.reset.cr with
      rateIn := 1, nbLevel := 1, agcMaxOut := .ofNat 100, agcRelTime := .one, agcRelGain := .one }
    chans := State.reset.chans.set 0
      { bank :=
          { chain :=
              { valid := true, rateId := 1, stages := [.hb (.fresh .cplx), .fir (.fresh .cplx 30 2) 2],
                achRate := .ofNat 24000 },
            demod :=
              { demod0 3 false (c 1) with
                inRate := .ofNat 24000, dec := [.hb (.fresh .cplx)], int := [.hb (.fresh .real), .hb (.fresh .real)] },
            tx := { valid := true, mode := 3, adapter := 0 },
            nb := { valid := true, w := 4, h := 2, bufS := List.replicate 4 .zero, bufM := List.replicate 4 .zero },
            agc := .fresh (.ofNat 48000) .one 2 false,
            notch :=
              { valid := true, fs := .ofNat 48000, blk := List.replicate 8 .zero, avg := List.replicate 5 .zero,
                slot0 := { prev := -1 }, slot1 := { prev := -1 }, kernel := List.replicate 8 .zero } },
        cr := { mode := 3, rxfTab := 2 },
        achRate := .ofNat 24000 } }

/-- The same with a block of two samples at cell 16. -/
def ready : State := block busy 16 [c 1, c 2]

/-- The same with a bank whose demodulator has no stages; its bandwidth register stands at the threshold of TC. -/
def straight (d : DemodState) (mode : BitVec 8) : State :=
  { busy with
    chans := busy.chans.set 0
      { bank := { (busy.bank 0) with demod := d }, cr := { mode := mode, rxfTab := 2, rxfBw := .ofNat 2000 } } }

/-! ## Well-formedness, decoding -/

theorem test_wf_accepts : (Instr.fdecim 65535).wellFormed = true := by decide
/-- R120: the `ID` field has 16 bits. -/
theorem test_wf_refuses_wide_id : (Instr.fdecim 65536).wellFormed = false := by decide
theorem test_wf_refuses_wide_id_flag : (Instr.finit true 65536).wellFormed = false := by decide

/-- Section 3.1: the words of the Filter Engine, bit by bit from R120 and R130. -/
theorem test_decode_filter :
    decode 0b00000000_00000000_0001001000110100 = some (.nop 0x1234) ∧
      decode 0b00010000_00000000_0000000000000000 = some (.finit false 0) ∧
      decode 0b00010000_00000001_0000000000000101 = some (.finit true 5) ∧
      decode 0b00010001_00000001_0000000000000001 = some (.ftune true 1) ∧
      decode 0b00010010_00000000_0000000000000011 = some (.fapply 3) ∧
      decode 0b00010011_00000000_0000000000000011 = some (.fdecim 3) ∧
      decode 0b00010100_00000000_0000000000000000 = some (.finterp 0) ∧
      decode 0b00010101_00000000_0000000000000010 = some (.fresamp 2) := by decide

/-- Section 3.1: half-bands, chain selector. -/
theorem test_decode_half_chain :
    decode 0b00100000_00000000_0000000000000010 = some (.hbinit false 2) ∧
      decode 0b00100000_00000001_0000000000000010 = some (.hbinit true 2) ∧
      decode 0b00100001_00000000_0000000000000000 = some (.hbdec2 0) ∧
      decode 0b00100010_00000000_0000000000000000 = some (.hbint2 0) ∧
      decode 0b00110000_00000000_0000000000000000 = some (.chsel false 0) ∧
      decode 0b00110000_00000001_0000000000000001 = some (.chsel true 1) ∧
      decode 0b00110001_00000000_0000000000000000 = some (.chrun 0) ∧
      decode 0b00110010_00000000_0000000000000000 = some (.frac 0) := by decide

/-- Section 3.1: the demodulator bank. -/
theorem test_decode_demod :
    decode 0b01000000_00000000_0000000000000000 = some (.dminit 0) ∧
      decode 0b01000001_00000000_0000000000000000 = some (.demod 0) ∧
      decode 0b01000010_00000000_0000000000000000 = some (.restore 0) ∧
      decode 0b01000011_00000000_0000000000000000 = some (.modinit 0) ∧
      decode 0b01000100_00000000_0000000000000000 = some (.mod 0) := by decide

/-- Section 3.1: AGC, noise blanker, auto-notch, orchestrator. -/
theorem test_decode_rest :
    decode 0b01010000_00000001_0000000000000000 = some (.agcinit true 0) ∧
      decode 0b01010001_00000001_0000000000000000 = some (.agcrun true 0) ∧
      decode 0b01100000_00000000_0000000000000001 = some (.nbinit 1) ∧
      decode 0b01100001_00000000_0000000000000001 = some (.nbrun 1) ∧
      decode 0b01110000_00000000_0000000000000000 = some (.aninit 0) ∧
      decode 0b01110001_00000000_0000000000000000 = some (.anrun 0) ∧
      decode 0b10000000_00000000_0000000000000000 = some (.piperx 0) ∧
      decode 0b11110000_00000000_0000000000000001 = some (.bkfree 1) := by decide

/-- Section 3.1: the illegal words. -/
theorem test_decode_illegal :
    decode 0x00010000 = none ∧ decode 0x10020000 = none ∧ decode 0x12010003 = none ∧ decode 0x01000000 = none ∧
      decode 0x16000000 = none ∧ decode 0x23000000 = none ∧ decode 0x7F000000 = none ∧ decode 0xFF000000 = none := by
  decide

/-- R6, R252: a configuration may change the rate of a digital-baseband mode and no other mode's rate, kind or sideband. -/
theorem test_mode_table :
    let with' := fun (m : Nat) (r : ModeRec) => { Tc.params with modes := Tc.modes.set m r }
    Tc.params.ok = true ∧ (with' 7 (Tc.modeRec 24000 .digSum false)).ok = true ∧
      (with' 3 (Tc.modeRec 24000 .ssbcw false)).ok = false ∧ (with' 3 (Tc.modeRec 12000 .am false)).ok = false ∧
      (with' 3 (Tc.modeRec 12000 .ssbcw true)).ok = false := by decide +kernel

/-- The words the opcode table numbers, run as the first command after reset. -/
theorem test_fetch_word :
    decodeTableWord 32 0x13000003 = some (.fdecim 3) ∧
      acted (.issueCmd 0x13000003) ready = after (.fdecim 3) ready := by decide +kernel

/-! ## binary64 arithmetic -/

/-- `0.1 + 0.2`, the tie `2^53 + 1`, the smallest subnormal halved, an overflow. -/
theorem test_round :
    (Real64.mk 0x3FB999999999999A).add ⟨0x3FC999999999999A⟩ = ⟨0x3FD3333333333334⟩ ∧
      (Real64.mk 0x4340000000000000).add .one = ⟨0x4340000000000000⟩ ∧
      (Real64.mk 1).mul .half = .zero ∧ (Real64.mk 0x7FEFFFFFFFFFFFFF).mul .two = .inf false ∧
      Real64.one.div (.ofNat 3) = ⟨0x3FD5555555555555⟩ := by decide +kernel

/-- Signed zeros: an exact zero sum is +0 unless both are -0. -/
theorem test_zeros :
    Real64.one.sub .one = .zero ∧ Real64.zero.neg.add Real64.zero.neg = Real64.zero.neg ∧
      Real64.zero.neg.eqv .zero = true ∧ Real64.one.div Real64.zero.neg = .inf true := by decide +kernel

/-! ## The Filter Engine (section 3.2) -/

/-- R162. -/
theorem test_finit : (after (.finit true 1) (args busy 1 3 0 0)).filter 1 = .fresh .real 1 3 := by decide +kernel
/-- E7. -/
theorem test_finit_no_table : raises (.finit false 0) (args busy 5 3 0 0) 10 5 = true := by decide +kernel

/-- F17 on the table `[1,2,3]`: at frequency 0 a tap is twice the table's value. -/
theorem test_ftune : ((after (.ftune false 0) (args busy 0 0 0 0)).filter 0).tuned.map (List.map Cplx.re) =
    some [.ofNat 2, .ofNat 4, .ofNat 6] := by
  decide +kernel
/-- F18: the lower sideband exchanges real and imaginary part. -/
theorem test_ftune_lower :
    ((after (.ftune true 0) (args busy 0 0 0 0)).filter 0).tuned.map (List.map Cplx.im) =
      some [.ofNat 2, .ofNat 4, .ofNat 6] := by decide +kernel

/-- F2. -/
theorem test_fapply :
    let t := after (.fapply 0) (block busy 0 [c 1, c 2, c 3, c 4])
    cells t 0 4 = [c 1, c 4, c 10, c 16] ∧ t.r0 = 4 ∧ (t.filter 0).cur = 1 ∧ (t.filter 0).hist = [c 4, c 2, c 3] := by
  decide +kernel
/-- E6. -/
theorem test_fapply_bounds : raises (.fapply 3) (args busy 0xFFFFE 4 0 0) 7 0xFFFFE = true := by decide +kernel

/-- F5. -/
theorem test_fdecim :
    let s := { busy with fi := busy.fi.set 0 fir2, a2 := 2 }
    let t := after (.fdecim 0) (block s 0 [c 1, c 2, c 3, c 4, c 5])
    cells t 0 5 = [c 3, c 7, c 3, c 4, c 5] ∧ t.r0 = 2 ∧ (t.filter 0).phase = 1 ∧ (t.filter 0).hist = [c 5, c 4] := by
  decide +kernel
/-- F9. -/
theorem test_fdecim_phase :
    raises (.fdecim 0) (block { busy with fi := busy.fi.set 0 (fir2.withPhase 2), a2 := 2 } 0 [c 1]) 5 0 = true := by
  decide +kernel

/-- F11. -/
theorem test_finterp :
    let s := { busy with ct := busy.ct.set 3 (some ⟨[.ofNat 1, .ofNat 2]⟩), fi := busy.fi.set 0 fir2, a2 := 3 }
    let t := after (.finterp 0) (block s 0 [c 1, c 10])
    cells t 0 6 = [c 3, c 6, c 0, c 30, c 60, c 0] ∧ t.r0 = 6 ∧ (t.filter 0).scap = 4 := by decide +kernel

/-- F14. -/
theorem test_fresamp :
    let t := after (.fresamp 0) (block { busy with a2 := 1, a3 := 2 } 0 [c 1, c 2, c 3, c 4, c 5])
    cells t 0 3 = [c 1, c 10, c 22] ∧ t.r0 = 3 ∧ (t.filter 0).phase = 1 := by decide +kernel

/-! ## Half-bands (section 3.3) -/

/-- R204. -/
theorem test_hbinit : (after (.hbinit true 1) busy).half 1 = .fresh .real := by decide +kernel

/-- H3, output 11: the window holds the ramp up to 23, and 24 enters. -/
theorem test_hbdec2 :
    let i : HBInst :=
      { bound := true, win := (List.range 23).reverse.map (fun k => c (k + 1)) ++ List.replicate 22 .zero, toggle := true }
    let t := after (.hbdec2 0) (block { busy with hb := busy.hb.set 0 i } 0 [c 24])
    cells t 0 1 = [c 2] ∧ t.r0 = 1 ∧ (t.half 0).toggle = false := by decide +kernel
/-- H4. -/
theorem test_hbdec2_count :
    let t := after (.hbdec2 0) (block busy 0 [c 1, c 1, c 1])
    t.r0 = 1 ∧ (t.half 0).toggle = true ∧ cells t 0 1 = [c 0] := by decide +kernel

/-- H6: in the steady state both outputs are the input. -/
theorem test_hbint2 :
    let t := after (.hbint2 0)
      (block { busy with hb := busy.hb.set 0 { bound := true, win := List.replicate 45 (c 100) } } 0 [c 100])
    cells t 0 2 = [c 100, c 100] ∧ t.r0 = 2 := by decide +kernel

/-! ## The chain selector (section 3.4) -/

/-- C1. -/
theorem test_chsel :
    let t := after (.chsel false 1) busy
    t.r1 = 0x40D7700000000000 ∧ (t.bank 1).chain.stages = [.hb (.fresh .cplx), .fir (.fresh .cplx 30 2) 2] := by
  decide +kernel
/-- C5. -/
theorem test_chsel_no_table : raises (.chsel false 0) { busy with ct := busy.ct.set 30 none } 10 30 = true := by
  decide +kernel

/-- C7. -/
theorem test_chrun :
    let t := after (.chrun 0) (block busy 0 (List.replicate 8 (c 1)))
    t.r0 = 2 ∧ cells t 0 2 = [c 0, c 0] := by decide +kernel

/-- C8. -/
theorem test_frac :
    let t := after (.frac 0) (block { busy with a2 := 0x3FF0000000000000 } 0 [c 1, c 2, c 3, c 4])
    cells t 0 4 = [c 0, c 0, c 1, c 2] ∧ t.r0 = 4 ∧
      (t.bank 0).frac = { h0 := c 1, h1 := c 2, h2 := c 3, h3 := c 4, mu := .zero } := by decide +kernel
/-- C10: a step of 1.5. -/
theorem test_frac_step :
    let t := after (.frac 0) (block { busy with a2 := 0x3FF8000000000000 } 0 [c 1, c 2, c 3, c 4, c 5, c 6])
    cells t 0 4 = [c 0, .ofReal ⟨0x3FDC000000000000⟩, c 2, .ofReal ⟨0x400C000000000000⟩] ∧ t.r0 = 4 := by decide +kernel

/-- X3: the fifth input is cut after it was shifted in. -/
theorem test_frac_cut :
    let s := block { busy with a2 := 0x3FE0000000000000 } 0 [c 1, c 2, c 3, c 4, c 5]
    let t := after (.frac 0) { s with cfg := { s.cfg with maxBlock := 8 } }
    t.r0 = 8 ∧ t.readCR 0 = 0x100 ∧ (t.bank 0).frac.h3 = c 5 ∧ (t.bank 0).frac.mu = .zero := by decide +kernel

/-! ## The demodulator bank (section 3.5) -/

/-- D3: the lower CW mode at 48000 Hz. -/
theorem test_dminit :
    let s := { busy with chans := busy.chans.set 0 { cr := { mode := 0, rxfTab := 2 } } }
    let t := after (.dminit 0) (args s 0x40E7700000000000 0 0 0)
    (t.bank 0).demod.dec = List.replicate 3 (.hb (.fresh .cplx)) ∧
      (t.bank 0).demod.int = List.replicate 3 (.hb (.fresh .real)) ∧ (t.bank 0).demod.rxfLower = true ∧
      (t.bank 0).demod.rxf.tuned = some [z 0 1] := by decide +kernel
/-- D6. -/
theorem test_dminit_no_semantics :
    raises (.dminit 0) (args (straight {} 10) 0x40E7700000000000 0 0 0) 8 10 = true := by decide +kernel

/-- D10. -/
theorem test_demod : cells (after (.demod 0) (block (straight (demod0 3 false (c 1)) 3) 0 [z 3 4])) 0 1 = [c 7] := by
  decide +kernel
/-- D14: `DGT_L`. -/
theorem test_demod_digital :
    cells (after (.demod 0) (block (straight (demod0 8 true (c 1)) 8) 0 [z 3 4])) 0 1 = [.ofReal (Real64.ofNat 1).neg] := by decide +kernel

/-- R11, R257: an infinite frequency that equals the latched one is read, not rejected. -/
theorem test_demod_latched_frequency :
    let c1 : BankRegs := { mode := 3, rxfTab := 2, rxfFreq := .inf false }
    let s := block busy 0 [z 3 4]
    let d := { demod0 3 false (c 1) with rxfFreq := .inf false }
    d.stale c1 = false ∧ (s.runDemod c1 d 8 (s.input .cplx)).bad = true := by decide +kernel

/-- D15. -/
theorem test_restore : (after (.restore 0) ready).r0 = 8 := by decide +kernel

/-- R273 with a `TxBundle`. -/
theorem test_modinit :
    let t := after (.modinit 0) busy
    (t.bank 0).tx.valid = true ∧ (t.bank 0).tx.mode = 3 ∧ completes (.modinit 0) busy = true := by decide +kernel
/-- D17. -/
theorem test_modinit_no_bundle :
    raises (.modinit 0) { busy with cfg := { busy.cfg with txBundle := false } } 8 3 = true := by decide +kernel
/-- D17. -/
theorem test_mod_unbound : raises (.mod 1) busy 6 1 = true := by decide +kernel

/-! ## AGC, noise blanker, auto-notch (sections 3.6 to 3.8) -/

/-- `AGC_LOOKAHEAD` of TC at 48000 Hz: three samples. -/
theorem test_agcinit : ((after (.agcinit false 1) (args busy 0x40E7700000000000 0 0 0)).bank 1).agc.len = 3 := by
  decide +kernel

/-- A1, with `alpha` 0.5. -/
theorem test_agcrun :
    let arg := Real64.one.neg.div (Real64.one.mul (.ofNat 48000))
    let s := { busy with cfg := { busy.cfg with num := { busy.cfg.num with exp := [(arg, .half)] } } }
    let t := after (.agcrun false 0) (block s 0 [c 10, c 200, c 10, c 10, c 10, c 10])
    cells t 0 6 = [c 0, c 0, .ofReal ⟨0x401E000000000000⟩, c 100, c 5, .ofReal ⟨0x401E000000000000⟩] ∧
      (t.bank 0).agc.gain = ⟨0x3FEC000000000000⟩ ∧ t.cr.agcGain = ⟨0x3FEC000000000000⟩ ∧ t.cr.ovrCnt = 0 := by
  decide +kernel
/-- A5. -/
theorem test_agcrun_reset_level :
    raises (.agcrun false 0) (block { busy with cr := { busy.cr with agcMaxOut := .zero } } 0 [c 1]) 5 0 = true := by
  decide +kernel

/-- Section 3.7: `W = 48` at 96000 Hz. -/
theorem test_nbinit :
    ((after (.nbinit 1) busy).bank 1).nb =
      { valid := true, w := 48, h := 24, bufS := List.replicate 48 .zero, bufM := List.replicate 48 .zero } := by
  decide +kernel

/-- N1. -/
theorem test_nbrun :
    let s := { busy with cfg := { busy.cfg with num := { busy.cfg.num with sqrt := [(.one, .one), (.ofNat 400, .ofNat 20)] } } }
    let t := after (.nbrun 0) (block s 0 (List.replicate 6 (c 1) ++ [c 20] ++ List.replicate 7 (c 1)))
    cells t 0 14 =
        List.replicate 4 .zero ++ List.replicate 4 (c 1) ++ [.ofReal .half, .zero, .zero, .zero, .ofReal .half, c 1] ∧
      (t.bank 0).nb.st = .normal ∧ (t.bank 0).nb.idx = 2 ∧ (t.bank 0).nb.sum = .ofNat 4 ∧ (t.bank 0).nb.seen = 4 ∧
      (t.bank 0).nb.ramp = 2 := by decide +kernel
/-- R336, R483 row 6: right after reset the level is 0, and no blanker is required. -/
theorem test_nbrun_after_reset : completes (.nbrun 0) State.reset = true ∧ (after (.nbrun 0) State.reset).r0 = 0 := by
  decide +kernel
/-- E13. -/
theorem test_nbrun_unbound : raises (.nbrun 1) ready 6 1 = true := by decide +kernel

/-- T6. -/
theorem test_aninit_other_bank : raises (.aninit 1) (args busy 0x40E7700000000000 0 0 0) 5 0 = true := by decide +kernel

/-- T2, before the first hop: two samples enter, nothing comes out. -/
theorem test_anrun : let t := after (.anrun 0) ready; t.r0 = 0 ∧ (t.bank 0).notch.fill = 2 := by decide +kernel

/-- T3 without its inverse transform: the bins of target 4 and of its mirror 12 are zeroed. -/
theorem test_notch_response :
    notchResponse { Tc.params with anNfft := 16, anKg := 9 } (some 4) none =
      (List.range 16).map fun k => if k = 4 ∨ k = 12 then .zero else c 1 := by decide +kernel

/-- T5: the allowed bins. -/
theorem test_notch_bins :
    sidetoneBin { Tc.params with anNfft := 16 } 0 (.ofNat 2000) (.ofNat 8000) = some 4 ∧
      searchBins { Tc.params with anNfft := 16 } (some 4) = [1, 2, 6, 7] := by decide +kernel

/-! ## The orchestrator and the errors (sections 3.9, 3.10) -/

/-- O4. -/
theorem test_piperx_no_data : raises (.piperx 0) busy 3 0 = true := by decide +kernel
/-- O6. -/
theorem test_piperx_unbound : raises (.piperx 0) (block State.reset 0 [c 1]) 6 0 = true := by decide +kernel

/-- O3, block 2: the key released, the fade-out beginning. -/
theorem test_key_release :
    let k : KeyCfg := { fade := 240, hold := 2, freq := .zero, down := false, toneSel := false }
    let r := keyLoop Tc.params k .ssbcw { st := .keyed, lvl := 4 } (List.replicate 6 (c 240))
    r.k.st = .fadeIn ∧ r.k.n = 4 ∧ r.k.lvl = 0 := by decide +kernel

/-- O7. -/
theorem test_bkfree : (after (.bkfree 1) busy).chans = busy.chans ∧ (after (.bkfree 0) busy).bank 0 = {} := by
  decide +kernel
/-- O8. -/
theorem test_nop : (after (.nop 9) { busy with r0 := 3, r1 := 4 }).r0 = 0 ∧ completes (.nop 9) busy = true := by
  decide +kernel

/-- E1. -/
theorem test_bad_op :
    let t := acted (.issueCmd 0x01000000) busy
    t.cr.status.code = 9 ∧ t.r1 = 0x01000000 ∧ t.cr.errCnt = 1 := by decide +kernel
/-- E14: the next command overwrites the record, `ERR_CNT` keeps its count. -/
theorem test_bad_op_then_nop :
    let t := acted (.issueCmd 0) (acted (.issueCmd 0x01000000) busy)
    t.cr.status.code = 0 ∧ t.r1 = 0 ∧ t.cr.errCnt = 1 := by decide +kernel

/-- R92 and R37 at their edges. -/
theorem test_host_edges :
    (acted (.loadTable 31 [.one]) busy).table 31 = some ⟨[.one]⟩ ∧ (acted (.loadTable 32 [.one]) busy).ct = busy.ct ∧
      (acted (.writeSM 1048575 [c 5]) busy).sm.read 1048575 = c 5 ∧
      cells (acted (.writeSM 1048575 [c 5, c 6]) busy) 1048575 1 = [.zero] := by decide +kernel

/-! ## States that meet the hypotheses of the statements -/

/-- A step or a command goes on to a next state. -/
def goesOn (r : Res) : Bool :=
  match r with
  | .next _ => true
  | _ => false

theorem exists_next {r : Res} (h : goesOn r = true) : ∃ t, r = .next t := by
  cases r with
  | next t => exact ⟨t, rfl⟩
  | fault f => simp [goesOn] at h
  | refused f => simp [goesOn] at h

/-- The state with one host action to come. -/
def hosted (a : HostAction) (s : State) : State := { s with host := [a] }

theorem witness_DecodeOfEncode : (Instr.agcrun true 65535).wellFormed = true := by decide

theorem witness_DecodeFollowsTheMap : decode 0xF000FFFF = some (.bkfree 65535) := by decide

theorem witness_StepRunsTheCommand :
    let s := hosted (.issueCmd 0x12000000) ready
    s.host = .issueCmd 0x12000000 :: [] ∧ s.configOk = true ∧ decode 0x12000000 = some (.fapply 0) := by decide +kernel

theorem witness_StepRunsTheCommand_illegal :
    let s := hosted (.issueCmd 0x12010000) ready
    s.host = .issueCmd 0x12010000 :: [] ∧ s.configOk = true ∧ decode 0x12010000 = none := by decide +kernel

theorem witness_RegisterActions :
    ready.host = [] ∧ (hosted (.writeA 3 7) ready).host = .writeA 3 7 :: [] ∧
      (hosted (.readR 1) ready).host = .readR 1 :: [] ∧ (hosted (.readCR 0x311) ready).host = .readCR 0x311 :: [] ∧
      (hosted (.writeCR 0x10C 5) ready).host = .writeCR 0x10C 5 :: [] := ⟨rfl, rfl, rfl, rfl, rfl⟩

theorem witness_LoadTableSetsOneSlot :
    (hosted (.loadTable 31 [.one]) ready).host = .loadTable 31 [.one] :: [] ∧ 31 < ready.ntab ∧ ¬32 < ready.ntab ∧
      (List.replicate 4096 Real64.one).length ≤ ready.cfg.maxTaps ∧ ¬4097 ≤ ready.cfg.maxTaps := by decide +kernel

theorem witness_MemoryActions :
    ready.sm.wf = true ∧ (hosted (.writeSM 1048574 [c 1, c 2]) ready).host = .writeSM 1048574 [c 1, c 2] :: [] ∧
      1048574 + [c 1, c 2].length ≤ ready.cfg.smSize ∧ (hosted (.readSM 1048575 1) ready).host = .readSM 1048575 1 :: [] ∧
      1048575 + 1 ≤ ready.cfg.smSize := by decide +kernel

/-- Both ends of every range of numbers. -/
theorem witness_ControlRegisterAccess :
    ready.nbanks = 2 ∧ (0x10 ≤ 0xFF ∧ 0xFF < 0x100) ∧ 0x100 + 8 * ready.nbanks ≤ 0x110 ∧ 0x110 < 0x300 ∧ 0x2FF < 0x300 ∧
      (0x308 ≤ 0x30F ∧ 0x30F < 0x310) ∧ 0x310 + ready.nbanks ≤ 0x312 ∧ 0x105 = 0x100 + 8 * 0 + 5 ∧
      0x10F = 0x100 + 8 * 1 + 7 ∧ 1 < ready.nbanks ∧ 0x001 ≠ 0x104 := by decide +kernel

theorem witness_ResetValues :
    (hosted .reset ready).host = .reset :: [] ∧ 1 < State.reset.nbanks ∧ 15 < State.reset.nfilt ∧ 15 < State.reset.nhb ∧
      31 < State.reset.ntab := by decide +kernel

theorem witness_StepKeepsMemory :
    ready.MemoryOk ∧ ∃ t, step (hosted (.issueCmd 0x12000000) ready) = .next t :=
  ⟨by decide +kernel, exists_next (by decide +kernel)⟩

theorem stage_hb_ok (p : Params) (v : Variant) : (StageInst.hb (.fresh v)).Ok p := by
  change (HBInst.fresh v).Ok
  cases v <;> decide +kernel

theorem stage_fir_ok : (StageInst.fir (.fresh .cplx 30 2) 2).Ok busy.cfg := by
  unfold StageInst.Ok
  decide +kernel

theorem busy_stages : ∀ x ∈ (busy.bank 0).chain.stages, x.Ok busy.cfg := by
  have h : (busy.bank 0).chain.stages = [.hb (.fresh .cplx), .fir (.fresh .cplx 30 2) 2] := rfl
  rw [h]
  simp only [List.forall_mem_cons, List.not_mem_nil, false_implies, implies_true, and_true]
  exact ⟨stage_hb_ok _ _, stage_fir_ok⟩

theorem busy_dec : ∀ x ∈ (busy.bank 0).demod.dec, x.Ok busy.cfg := by
  have h : (busy.bank 0).demod.dec = [.hb (.fresh .cplx)] := rfl
  rw [h]
  simp only [List.forall_mem_cons, List.not_mem_nil, false_implies, implies_true, and_true]
  exact stage_hb_ok _ _

theorem busy_int : ∀ x ∈ (busy.bank 0).demod.int, x.Ok busy.cfg := by
  have h : (busy.bank 0).demod.int = [.hb (.fresh .real), .hb (.fresh .real)] := rfl
  rw [h]
  simp only [List.forall_mem_cons, List.not_mem_nil, false_implies, implies_true, and_true]
  exact ⟨stage_hb_ok _ _, stage_hb_ok _ _⟩

theorem busy_bank : (busy.bank 0).Ok busy.cfg := by
  refine ⟨busy_stages, fun _ => ⟨by decide +kernel, busy_dec, busy_int, by decide +kernel, by decide +kernel, ?_⟩, ?_, ?_, ?_⟩ <;>
    decide +kernel

theorem free_bank : Bank.Ok busy.cfg {} := by
  refine ⟨by simp, fun h => absurd h (by decide), ?_, ?_, ?_⟩ <;> decide +kernel

theorem witness_StepKeepsComponents :
    busy.ComponentsOk ∧ ∃ t, step (hosted (.issueCmd 0x80000000) { ready with a2 := 64 }) = .next t := by
  refine ⟨⟨by decide +kernel, by decide +kernel, by decide +kernel, ?_, ?_⟩, exists_next (by decide +kernel)⟩
  · intro x hx
    have h : x = busy.chan 0 ∨ x = {} := by
      change x ∈ [busy.chan 0, {}] at hx
      simpa using hx
    rcases h with rfl | rfl
    · exact busy_bank
    · exact free_bank
  · intro b hb
    match b, hb with
    | 1, _ => rfl
    | b + 2, _ => rfl

theorem witness_ResetMeetsInvariants : State.reset.MemoryOk := by decide +kernel

/-- For the statements about every command: one that stores, and one that ends with an error. -/
theorem witness_commands :
    ready.sm.wf = true ∧ ready.configOk = true ∧ (∃ t, exec (.fapply 0) ready = .next t) ∧
      completes (.fapply 0) ready = true ∧ raises (.fapply 15) ready 6 15 = true :=
  ⟨by decide +kernel, by decide +kernel, exists_next (by decide +kernel), by decide +kernel, by decide +kernel⟩

/-- `CommandsReadOnlyTheirBlock`: memory with another cell 18 beside the block `16 .. 17`. -/
theorem witness_CommandsReadOnlyTheirBlock :
    ((ready.sm.write 18 (c 9)).read 16 = ready.sm.read 16 ∧ (ready.sm.write 18 (c 9)).read 17 = ready.sm.read 17) ∧
      (ready.sm.write 18 (c 9)).wf = true ∧ (ready.sm.write 18 (c 9)).read 18 ≠ ready.sm.read 18 ∧
      (∃ t, exec (.chrun 0) ready = .next t) ∧
      (let s := block busy 16 [⟨.inf false, .zero⟩, c 2];
        completes (.demod 0) s && completes (.piperx 0) { s with a2 := 64 } = true) :=
  ⟨by decide +kernel, by decide +kernel, by decide +kernel, exists_next (by decide +kernel), by decide +kernel⟩

/-- Every command of the frame statements completes somewhere. -/
theorem witness_filter_frames :
    completes (.finit true 1) (args busy 1 3 0 0) && completes (.ftune true 0) (args busy 0 0 0 0) &&
      completes (.fapply 0) ready && completes (.fdecim 0) { ready with a2 := 2 } &&
      completes (.finterp 0) { ready with a2 := 2 } && completes (.fresamp 0) { ready with a2 := 3, a3 := 2 } = true := by
  decide +kernel

theorem witness_half_frames :
    completes (.hbinit true 1) busy && completes (.hbdec2 0) ready && completes (.hbint2 0) ready = true := by decide +kernel

theorem witness_chain_frames :
    completes (.chsel true 1) busy && completes (.chrun 0) ready &&
      completes (.frac 0) { ready with a2 := 0x3FF8000000000000 } = true := by decide +kernel

theorem witness_demod_frames :
    completes (.dminit 0) (args busy 0x40E7700000000000 0 0 0) && completes (.demod 0) ready && completes (.restore 0) ready &&
      completes (.modinit 0) busy && completes (.mod 0) (args busy 0 0 0 0) = true := by decide +kernel

theorem witness_component_frames :
    completes (.agcinit true 0) (args busy 0x40E7700000000000 0 0 0) && completes (.agcrun true 0) ready &&
      completes (.nbinit 1) busy && completes (.nbrun 0) ready &&
      completes (.aninit 0) (args busy 0x40E7700000000000 0 0 0) && completes (.anrun 0) ready = true := by decide +kernel

/-- One that completes; and one in `DGT_C` with the notch on. -/
theorem witness_PiperxFrame :
    (ready.sm.wf = true ∧ ready.configOk = true ∧ (∃ t, exec (.piperx 0) { ready with a2 := 64 } = .next t) ∧
      (busy.bank 0).chain.achRate.eqv (busy.bank 0).demod.inRate = true ∧ busy.cr.notchEn = false) ∧
      (let s := { block (straight { demod0 9 false (c 1) with inRate := .ofNat 24000 } 9) 16 [c 1, c 2] with
          cr := { busy.cr with notchEn := true }, a2 := 64 };
        s.demodKind 0 = .digRaw ∧ s.cr.notchEn = true ∧ completes (.piperx 0) s = true) :=
  ⟨⟨by decide +kernel, by decide +kernel, exists_next (by decide +kernel), by decide +kernel, rfl⟩, by decide +kernel⟩

theorem witness_OnlyInitialisersBind :
    (∃ t, exec (.bkfree 1) busy = .next t) ∧ Instr.bkfree 1 ≠ .bkfree 0 ∧ (∀ v, Instr.bkfree 1 ≠ .finit v 0) :=
  ⟨exists_next (by decide +kernel), by decide, by simp⟩

/-! ### Errors -/

theorem witness_IdOutOfRange :
    ready.idCount (idKind (.fapply 16)) = some 16 ∧ ready.idCount (idKind (.hbdec2 16)) = some 16 ∧
      ready.idCount (idKind (.piperx 2)) = some 2 ∧ 16 ≤ (Instr.fapply 16).id := by decide +kernel

theorem witness_CountAboveMaxBlock :
    let s := args busy 0 65537 0 0
    inPlace (.fapply 0) = true ∧ s.idInRange (.fapply 15) ∧ s.cfg.maxBlock < s.opN ∧ 0 < s.cr.nrx.toNat ∧
      s.cr.nrx.toNat ≤ s.nbanks := by decide +kernel

/-- One cell past the end: by the count itself, and by what a command makes of a count that fits. -/
theorem witness_CountAndBoundsErrors :
    (let s := args busy 1048575 2 1 1;
      s.opN ≤ s.cfg.maxBlock ∧ s.cfg.smSize < s.opA + s.opN ∧ 15 < s.nfilt ∧ 15 < s.nhb ∧ 1 < s.nbanks ∧ 1 ≤ s.op2 ∧
        s.op2 ≤ s.cfg.maxTaps ∧ 1 ≤ s.op3 ∧ s.op3 ≤ s.cfg.maxTaps ∧ 0 < s.cr.nrx.toNat ∧ s.cr.nrx.toNat ≤ s.nbanks ∧ 1 ≤ s.opN) ∧
      (let s := args busy 1048574 1 3 1;
        s.cfg.smSize < s.opA + max s.opN (min (s.opN * s.op2) s.cfg.maxBlock) ∧
          s.cfg.smSize < s.opA + max s.opN (min ((s.opN * s.op2 + (s.op3 - 1)) / s.op3 + 1) s.cfg.maxBlock)) ∧
      (let s := args busy 1048575 1 0x3FE0000000000000 0;
        s.cfg.smSize < s.opA + max s.opN (min (2 * s.opN) s.cfg.maxBlock) ∧
          (s.opStep.isFinite = true ∧ s.cfg.smSize < s.opA + (if s.opStep.lt .one then s.cfg.maxBlock else s.opN)) ∧
          s.cfg.smSize < s.opA + max s.opN (min (s.opN * stagesRatio (s.bank 0).demod.int) s.cfg.maxBlock) ∧
          s.cfg.smSize < s.opA + s.cfg.maxBlock ∧ s.cfg.smSize < s.opA + min (s.opN + s.cfg.anB - 1) s.cfg.maxBlock) ∧
      (let s := args busy 0 1 983041 0;
        s.opA + s.opN ≤ s.cfg.smSize ∧ s.cfg.smSize < s.op2 + s.cfg.maxBlock) := by decide +kernel

/-- After reset, with two receivers and the blanker on: nothing is in use. -/
theorem witness_UnboundRuns :
    let s := args { State.reset with cr := { State.reset.cr with nbLevel := 3, nrx := 2 } } 0 1 2 3
    s.BufferOk s.cfg.maxBlock ∧ (15 < s.nfilt ∧ (s.filter 15).bound = false) ∧ (15 < s.nhb ∧ (s.half 15).bound = false) ∧
      1 < s.nbanks ∧ (s.bank 1).chain.valid = false ∧ (s.bank 1).demod.valid = false ∧ (s.bank 1).tx.valid = false ∧
      (s.bank 1).agc.valid = false ∧ ((s.bank 1).nb.valid = false ∧ s.cr.nbLevel ≠ 0) ∧ (s.bank 0).notch.valid = false ∧
      (1 ≤ s.op2 ∧ s.op2 ≤ s.cfg.maxTaps) ∧ (1 ≤ s.op3 ∧ s.op3 ≤ s.cfg.maxTaps) ∧ s.opReal.isFinite = true ∧
      s.PipeOperandsOk 1 ∧ ¬s.PipeBound 1 := by
  decide +kernel

/-- PIPERX lacks the blanker alone; the notch alone. -/
theorem witness_UnboundRuns_piperx :
    (let s := { ready with cr := { ready.cr with nrx := 2 }, chans := ready.chans.set 1 { bank := { ready.bank 0 with nb := {} } } };
      s.PipeOperandsOk 1 ∧ ¬s.PipeBound 1 ∧ (s.bank 1).agc.valid = true) ∧
      (let s := { ready with
          cr := { ready.cr with notchEn := true }, chans := ready.chans.set 0 { bank := { ready.bank 0 with notch := {} } } };
        s.PipeOperandsOk 0 ∧ ¬s.PipeBound 0 ∧ s.NotchRuns 0) := by decide +kernel

theorem unresolved_of_none {s : State} {f : FilterInst} (h : s.table f.tab = none) : s.Unresolved f := by
  simp [State.Unresolved, h]

theorem unresolved_of_length {s : State} {f : FilterInst} {t : Table} (h : s.table f.tab = some t)
    (hl : t.val.length ≠ f.taps) : s.Unresolved f := by
  simpa [State.Unresolved, h] using hl

/-- The slot empty; the slot with a table of another length; a carried phase equal to the ratio; the real variant. -/
theorem witness_FilterStateErrors :
    (let s := { ready with ct := ready.ct.set 1 none, a2 := 1, a3 := 4096 };
      0 < s.nfilt ∧ s.BufferOk s.cfg.maxBlock ∧ (s.filter 0).bound = true ∧ s.Unresolved (s.filter 0) ∧ 1 ≤ s.op2 ∧
        s.op2 ≤ s.cfg.maxTaps ∧ 1 ≤ s.op3 ∧ s.op3 ≤ s.cfg.maxTaps) ∧
      (let s := { ready with ct := ready.ct.set 1 (some ⟨[.one, .one]⟩) };
        s.Unresolved (s.filter 0)) ∧
      (let s := { ready with fi := ready.fi.set 0 (fir3.withPhase 2), a2 := 2 };
        s.table (s.filter 0).tab = some ⟨[.ofNat 1, .ofNat 2, .ofNat 3]⟩ ∧ (s.filter 0).taps = 3 ∧
          s.op2 ≤ (s.filter 0).phase) ∧
      (let s := { args busy 0 0 0 0 with fi := busy.fi.set 0 (.fresh .real 1 3) };
        (s.filter 0).bound = true ∧ s.opReal.isFinite = true ∧ (s.filter 0).variant = .real ∧
          s.table (s.filter 0).tab = some ⟨[.ofNat 1, .ofNat 2, .ofNat 3]⟩) :=
  ⟨⟨by decide +kernel, by decide +kernel, by decide +kernel, unresolved_of_none (by decide +kernel), by decide +kernel,
      by decide +kernel, by decide +kernel, by decide +kernel⟩,
    unresolved_of_length (t := ⟨[.one, .one]⟩) (by decide +kernel) (by decide +kernel), by decide +kernel, by decide +kernel⟩

/-- A ratio of 0 and one above `MAXTAPS`; an infinite frequency; FINIT past the last slot, with no tap, with one too many, on an empty
slot, and on a table of another length. -/
theorem witness_FilterStateErrors_operands :
    (ready.opN ≤ ready.cfg.maxBlock ∧ (args busy 0 0 0 4097).op2 = 0 ∧ ready.cfg.maxTaps < (args busy 0 0 0 4097).op3) ∧
      (args busy 0x7FF0000000000000 0 0 0).opReal.isFinite = false ∧
      (busy.ntab ≤ (args busy 32 1 0 0).opA ∧ (args busy 1 0 0 0).opN = 0 ∧ busy.cfg.maxTaps < (args busy 1 4097 0 0).opN) ∧
      busy.table (args busy 5 3 0 0).opA = none ∧
      busy.table (args busy 1 2 0 0).opA = some ⟨[.ofNat 1, .ofNat 2, .ofNat 3]⟩ ∧ (args busy 1 2 0 0).opN = 2 := by
  decide +kernel

/-- CHSEL and CHRUN without table 30: the first stage is ready, the second is not. -/
theorem witness_BankTableErrors_chain :
    let s := { ready with ct := ready.ct.set 30 none }
    0 < s.nbanks ∧ s.cfg.rateHz s.cr.rateIn.toNat = some 96000 ∧
      s.cfg.cascade s.cr.rateIn.toNat false = some ([.hb] ++ .fir 2 30 :: []) ∧ s.SlotsFilled [.hb] ∧ s.table 30 = none ∧
      s.BufferOk s.cfg.maxBlock ∧ (s.bank 0).chain.valid = true ∧ s.FirstUnresolved (s.bank 0).chain.stages 30 :=
  ⟨by decide +kernel, by decide +kernel, by decide +kernel, by simp [State.SlotsFilled], by decide +kernel, by decide +kernel, rfl,
    [.hb (.fresh .cplx)], .fresh .cplx 30 2, 2, [], rfl, by unfold State.StagesReady; decide +kernel,
    unresolved_of_none (by decide +kernel), rfl⟩

/-- DMINIT: no stage list for a factor of 3; an empty slot; a frequency that is infinite. -/
theorem witness_BankTableErrors_dminit :
    let s := args busy 0x40D7700000000000 0 0 0
    let r := s.cfg.modeRec (s.bankRegs 0).mode.toNat
    (s.opReal.isPos = true ∧ (s.bankRegs 0).mode.toNat ≤ 12 ∧ r.kind ≠ .noSemantics ∧ r.kind ≠ .dv) ∧
      (r.decList (.ofNat 36000) = none ∧ r.decList s.opReal = some [.hb] ∧ s.cfg.intList r = some [.hb, .hb]) ∧
      s.SlotsFilled ([.hb] ++ [.hb, .hb]) ∧ (busy.ct.set 2 none).getD 2 none = none ∧ (Real64.inf false).isFinite = false :=
  ⟨by decide +kernel, by decide +kernel, by simp [State.SlotsFilled], by decide +kernel, by decide +kernel⟩

/-- A stage on table 3, whose length is another; a refresh on an empty slot, on one past the last, and on a table of another
length. -/
theorem witness_BankTableErrors_demod :
    (let bad : StageInst := .fir (.fresh .real 3 5) 2;
      let s := { ready with
        chans := ready.chans.set 0
          { ready.chan 0 with bank := { ready.bank 0 with demod := { (ready.bank 0).demod with dec := [bad], int := [bad] } } } };
      s.BufferOk s.cfg.maxBlock ∧ (s.bank 0).demod.valid = true ∧
        (s.cfg.modeRec (s.bank 0).demod.mode).kind ≠ .noSemantics ∧ s.RefreshReady (s.bank 0).demod (s.bankRegs 0) ∧
        s.FirstUnresolved (s.bank 0).demod.dec 3 ∧ s.FirstUnresolved (s.bank 0).demod.int 3) ∧
      ((ready.bank 0).demod.Stale { (ready.bankRegs 0) with rxfTab := 5 } ∧ ready.table 5 = none ∧ ready.ntab = 32 ∧
        ¬(ready.bank 0).demod.Stale (ready.bankRegs 0) ∧ (ready.bank 0).demod.rxf.taps = 1) := by
  refine ⟨⟨by decide +kernel, rfl, by decide +kernel, ⟨fun h => absurd h (by decide +kernel), fun _ => ⟨⟨[.half]⟩, ?_⟩⟩, ?_, ?_⟩,
    by decide +kernel⟩
  · decide +kernel
  · exact ⟨[], .fresh .real 3 5, 2, [], rfl, by simp [State.StagesReady, State.stageChecks],
      unresolved_of_length (t := ⟨[.ofNat 1, .ofNat 1]⟩) (by decide +kernel) (by decide +kernel), rfl⟩
  · exact ⟨[], .fresh .real 3 5, 2, [], rfl, by simp [State.StagesReady, State.stageChecks],
      unresolved_of_length (t := ⟨[.ofNat 1, .ofNat 1]⟩) (by decide +kernel) (by decide +kernel), rfl⟩

/-- PIPERX with every check before its stages' own met, and with its rates equal and, after another DMINIT, not. -/
theorem witness_BankTableErrors_piperx :
    let s := { ready with a2 := 64 }
    s.PipeOperandsOk 0 ∧ s.PipeBound 0 ∧ s.cfg.rateHz (s.bank 0).chain.rateId = some 96000 ∧ s.TuneOk 0 96000 ∧
      s.AgcRegistersOk ∧ (s.bank 0).chain.achRate.eqv (s.bank 0).demod.inRate = true ∧
      ((s.bank 0).chain.achRate.eqv (.ofNat 48000) = false ∧ ((s.bank 0).chain.achRate.div (.ofNat 48000)).isPos = true) ∧
      ((Real64.inf false).isFinite = false ∧ Real64.zero.isPos = false) := by decide +kernel

theorem witness_BankConfigurationErrors :
    (Params.rateHz busy.cfg 7 = none ∧ Params.cascade busy.cfg 0 true = none) ∧
      ((args busy 0x40E7700000000000 0 0 0).opReal.isPos = true ∧ ((straight {} 13).bankRegs 0).mode.toNat = 13) ∧
      ((busy.cfg.modeRec 10).kind = .noSemantics ∧ (busy.cfg.modeRec 12).kind = .dv ∧ busy.cfg.codec = false) ∧
      State.reset.cfg.txBundle = false ∧ (args busy 0 0 0 0).BufferOk busy.cfg.maxBlock ∧ busy.cr.nrx.toNat = 1 ∧
      busy.nbanks = 2 ∧ busy.a1 = 0 := by decide +kernel

/-- A rate of 0, a step of 0 and of infinity, an AGC register of 0; a look-ahead of no sample, a blanker of one; and one that is
longer than a block. -/
theorem witness_BankConfigurationErrors_values :
    ((args busy 0 0 0 0).opReal.isPos = false ∧ (args busy 0 0 0 0).opStep.isPos = false) ∧
      ((args busy 0 0 0x7FF0000000000000 0).opStep.isFinite = false) ∧
      (busy.cfg.agcLookahead.mul .one).roundHalfUp? = some 0 ∧
      (Real64.half.mul (.ofNat 480000)).roundHalfUp? = some 240000 ∧ busy.cfg.maxBlock < 240000 ∧
      ((Real64.one.div (.ofNat 96000)).mul (.ofNat 96000)).roundHalfUp? = some 1 ∧
      (let s := { ready with cr := { ready.cr with agcRelTime := .zero } };
        s.BufferOk s.opN ∧ (s.bank 0).agc.valid = true ∧ ¬s.AgcRegistersOk) := by decide +kernel

theorem witness_AllocationFails :
    let s := { args busy 1 3 0 0 with allocs := [false] }
    s.allocs.headD true = false ∧ 15 < s.nfilt ∧ s.table s.opA = some ⟨[.ofNat 1, .ofNat 2, .ofNat 3]⟩ ∧ s.opN = 3 ∧
      s.opA < s.ntab ∧ 1 ≤ s.opN ∧ s.opN ≤ s.cfg.maxTaps := by decide +kernel

/-- A command that takes the answer, one that takes none, and both sides of what decides it. -/
theorem witness_AllocationFails_consults :
    (after (.finterp 0) { ready with a2 := 2, allocs := true :: [false] }).allocs = [false] ∧
      (after (.fapply 0) { ready with allocs := true :: [false] }).allocs = true :: [false] ∧
      (ready.filter 0).scap < ready.opN ∧ ready.outgrown (ready.bank 0).demod.int ready.opN = false ∧
      ready.outgrown [.fir (.fresh .real 3 2) 2] ready.opN = true ∧ completes (.restore 0) ready = true ∧
      ¬(ready.bank 0).demod.Stale (ready.bankRegs 0) := by decide +kernel

/-! ### Filters -/

/-- `fir3` and its table can run, on a finite block. -/
theorem ready_filter :
    0 < ready.nfilt ∧ ready.sm.wf = true ∧ ready.cfg.maxBlock < 2 ^ 64 ∧ ready.FilterReady (ready.filter 0) ∧
      (ready.filter 0).AllFinite (ready.coefs (ready.filter 0)) (ready.input .cplx) ∧ (ready.filter 0).variant = .cplx := by
  decide +kernel

/-- The same with the real variant. -/
theorem ready_real_filter :
    let s := { ready with fi := ready.fi.set 0 (.fresh .real 1 3) }
    s.FilterReady (s.filter 0) ∧ (s.filter 0).AllFinite (s.coefs (s.filter 0)) (s.input .real) := by decide +kernel

theorem witness_InstancesAreBound :
    let s := args busy 1 3 0 0
    15 < s.nfilt ∧ s.opA < s.ntab ∧ 1 ≤ s.opN ∧ s.opN ≤ s.cfg.maxTaps ∧
      s.table s.opA = some ⟨[.ofNat 1, .ofNat 2, .ofNat 3]⟩ ∧ s.allocOk = true ∧ 15 < s.nhb := by decide +kernel

theorem witness_FtuneTable :
    let s := args busy 0 0 0 0
    0 < s.nfilt ∧ s.opReal.isFinite = true ∧ s.FilterReady (s.filter 0) ∧ (s.filter 0).variant = .cplx ∧ s.allocOk = true ∧
      ∀ c ∈ s.coefs (s.filter 0), c.isFinite = true := by decide +kernel

theorem witness_FapplyConvolves : ready.BufferOk ready.opN ∧ ready.opN = 2 := by decide +kernel

theorem witness_FdecimDecimates :
    let s := { ready with a2 := 2 }
    s.BufferOk s.opN ∧ 1 ≤ s.op2 ∧ s.op2 ≤ s.cfg.maxTaps ∧ (s.filter 0).phase < s.op2 ∧ s.FilterReady (s.filter 0) := by
  decide +kernel

theorem witness_FinterpInterpolates :
    let s := { ready with a2 := 4096 }
    s.BufferOk (s.extentUp s.opN (s.opN * s.op2)) ∧ 1 ≤ s.op2 ∧ s.op2 ≤ s.cfg.maxTaps ∧ s.allocOk = true := by decide +kernel

theorem witness_FresampResamples :
    let s := { ready with a2 := 3, a3 := 4096 }
    s.BufferOk (s.extentUp s.opN ((s.opN * s.op2 + (s.op3 - 1)) / s.op3 + 1)) ∧ 1 ≤ s.op2 ∧ s.op2 ≤ s.cfg.maxTaps ∧
      1 ≤ s.op3 ∧ s.op3 ≤ s.cfg.maxTaps ∧ s.allocOk = true := by decide +kernel

/-- An infinite sample, with the complex and the real variant. -/
theorem witness_FreeValuesKeepCounts :
    let s := block busy 16 [⟨.inf false, .zero⟩]
    0 < s.nfilt ∧ s.sm.wf = true ∧ s.BufferOk s.opN ∧ s.FilterReady (s.filter 0) ∧
      (s.sm.read (s.opA + 0)).re.isFinite = false ∧
      (let t := { s with fi := s.fi.set 0 (.fresh .real 1 3) }; t.FilterReady (t.filter 0) ∧ (t.filter 0).variant = .real) := by
  decide +kernel

/-- HBDEC2 and HBINT2, both variants. -/
theorem witness_half :
    (0 < ready.nhb ∧ ready.BufferOk ready.opN ∧ ready.BufferOk (ready.extentUp ready.opN (2 * ready.opN)) ∧
      (ready.half 0).bound = true ∧ (ready.half 0).Ok ∧ (ready.half 0).AllFinite (ready.input .cplx)) ∧
      (let s := { ready with hb := ready.hb.set 0 (.fresh .real) };
        (s.half 0).bound = true ∧ (s.half 0).Ok ∧ (s.half 0).AllFinite (s.input .real)) := by decide +kernel

/-! ### Banks -/

theorem witness_ChselBuilds :
    1 < busy.nbanks ∧ busy.cfg.rateHz busy.cr.rateIn.toNat = some 96000 ∧
      busy.cfg.cascade busy.cr.rateIn.toNat true = some [.hb, .fir 2 31] ∧ (busy.table 31).isSome = true ∧
      busy.allocOk = true ∧
      (let l := busy.cfg.chains;
        l = l.take 3 ++ ⟨1, true, [.stage .hb, .final]⟩ :: [] ∧ (∀ r ∈ l.take 3, ¬(r.rateId = 1 ∧ r.wide = true)) ∧
          ∀ r ∈ l, ¬(r.rateId = 5 ∧ r.wide = true)) := by decide +kernel

/-- Four samples, of which the half-band makes two and the FIR stage one. -/
theorem witness_ChrunDecimates :
    let s := block busy 16 [c 1, c 2, c 3, c 4]
    0 < s.nbanks ∧ s.sm.wf = true ∧ s.BufferOk s.opN ∧ (s.bank 0).chain.valid = true ∧
      (∀ x ∈ (s.bank 0).chain.stages, x.Ok s.cfg) ∧ s.StagesReady (s.bank 0).chain.stages ∧
      cascadeCount (s.bank 0).chain.stages s.opN = 1 ∧ (∀ z ∈ s.input .cplx, z.isFinite = true) ∧
      s.CascadeFinite s.stageDecimates (s.bank 0).chain.stages (s.input .cplx) := by
  refine ⟨by decide +kernel, by decide +kernel, by decide +kernel, rfl, busy_stages,
    by unfold State.StagesReady; decide +kernel, by decide +kernel, by decide +kernel, ?_⟩
  change HBInst.AllFinite (.fresh .cplx) _ ∧ FilterInst.AllFinite (.fresh .cplx 30 2) _ _ ∧ True
  decide +kernel

theorem witness_FracResamples :
    let s := { ready with a2 := 0x3FF0000000000000 }
    let f := (s.bank 0).frac
    s.BufferOk s.fracExtent ∧ s.opStep.isPos = true ∧ s.opStep = .one ∧ f.mu = .zero ∧
      ∀ z ∈ [f.h0, f.h1, f.h2, f.h3] ++ s.input .cplx, z.isFinite = true := by decide +kernel

/-- A step of a half from 0: two outputs for each of two inputs; with a `MAXBLOCK` of 3 the second input's second output is cut. From a
fraction of 1 an input makes none. -/
theorem witness_FracResamples_several :
    let s := { ready with a2 := 0x3FE0000000000000 }
    (s.BufferOk s.fracExtent ∧ s.opStep.isPos = true ∧ s.opN = 2 ∧ (s.bank 0).frac.mu = .zero ∧
      ((∀ k < 2, (stepped s.opStep .zero k).lt .one = true) ∧ (stepped s.opStep .zero 2).lt .one = false ∧
        (stepped s.opStep .zero 2).sub .one = .zero) ∧
      outputsBefore (fun _ => 2) 2 = 4 ∧ 4 ≤ s.fracExtent) ∧
      (let s := { s with cfg := { s.cfg with maxBlock := 3 } };
        s.BufferOk s.fracExtent ∧ outputsBefore (fun _ => 2) 1 + 1 = s.fracExtent ∧
          ∀ k ≤ 1, (stepped s.opStep .zero k).lt .one = true) ∧
      (stepped .half .one 0).lt .one = false := by decide +kernel

theorem witness_DminitBuilds :
    let s := { args busy 0x40D7700000000000 0 0 0 with allocs := [true] }
    let c := s.bankRegs 0
    let r := s.cfg.modeRec c.mode.toNat
    (0 < s.nbanks ∧ s.opReal.isPos = true ∧ c.mode.toNat ≤ 12 ∧ r.kind ≠ .noSemantics ∧ r.kind ≠ .dv ∧
      s.opReal.toNat? = some (2 * r.filterRate) ∧ 4 * r.filterRate = s.cfg.canon * s.cfg.outFactor ∧
      c.rxfTab.toNat < s.ntab ∧ s.table c.rxfTab.toNat = some ⟨[.half]⟩ ∧ c.rxfFreq.isFinite = true ∧ s.allocOk = true) ∧
      StageListFor r.dec 2 [.hb] ∧ StageListFor r.int 4 [.hb, .hb] :=
  ⟨by decide +kernel, .inr ⟨by decide +kernel, 1, rfl, rfl⟩, .inr ⟨by decide +kernel, 2, rfl, rfl⟩⟩

/-- A list that the configuration gives for a factor that is no power of two. -/
theorem witness_DminitBuilds_listed : StageListFor [(3, some [.fir 3 2])] 3 [.fir 3 2] := .inl (by decide)

/-- A bank with one decimating stage, latched in a mode with the table 2 and the frequency 0, its registers at these values. -/
def tuner (mode : Nat) (tab : BitVec 16) (bw freq : Real64) : State :=
  let d := { demod0 mode false (c 1) with inRate := .ofNat 24000, dec := [.hb (.fresh .cplx)] }
  block { busy with
    chans := busy.chans.set 0
      { bank := { (busy.bank 0) with demod := d },
        cr := { mode := BitVec.ofNat 8 mode, rxfTab := tab, rxfBw := bw, rxfFreq := freq } } } 16 [z 3 4, c 2, c 5]

/-- What the statements about DEMOD ask of a bank with one half-band stage, in a form that is decided. -/
def demodChecks (s : State) (h : HBInst) : Bool :=
  let d := (s.bank 0).demod
  let c := s.bankRegs 0
  let f := s.demodFilter 0
  let x := s.input .cplx
  let y := s.demodStream 0
  decide ((d.valid = true ∧ s.demodKind 0 ≠ .noSemantics ∧ d.dec = [.hb h] ∧ h.Ok ∧
    (d.Stale c → c.rxfTab.toNat < s.ntab ∧ c.rxfFreq.isFinite = true ∧ (s.table c.rxfTab.toNat).isSome = true) ∧
    (s.table d.rxfTab).any (fun tb => tb.val.length == d.rxf.taps) = true ∧ s.allocOk = true) ∧
  c.rxfFreq.isFinite = true ∧ BandwidthOk (s.demodKind 0) c.rxfBw ∧ (∀ v ∈ s.rxfPrototype 0, v.isFinite = true) ∧ h.AllFinite x ∧
    (∀ z ∈ x ++ y, z.isFinite = true) ∧ f.bound = true ∧ f.Ok s.cfg ∧ f.AllFinite (s.coefs f) y ∧
    d.fmPrev.isFinite = true ∧ ∀ m < y.length, (s.demodFiltered 0 m).isFinite = true)

theorem demod_of_checks {s : State} {h : HBInst} (hs : demodChecks s h = true) : s.DemodReady 0 ∧ s.DemodFinite 0 := by
  obtain ⟨⟨hv, hk, hd, hh, hr, ht, ha⟩, hq, hb, hp, hx, hy, hf, ho, hfin, hfm, hm⟩ := of_decide_eq_true hs
  obtain ⟨tb, htb, hlen⟩ := (Option.any_eq_true _ _).mp ht
  refine ⟨⟨hv, hk, ?_, ?_, ⟨hr, fun _ => ⟨tb, htb, by simpa using hlen⟩⟩, fun _ => ha⟩,
    ⟨hq, hb, fun _ => hp⟩, ?_, hy, fun _ => ⟨hf, ho, hfin⟩, fun _ => ⟨hfm, hm⟩⟩
  · rw [hd]
    simpa [StageInst.Ok] using hh
  · rw [hd]
    simp [State.StagesReady, State.stageChecks]
  · rw [hd]
    exact ⟨hx, trivial⟩

/-- The mode, the bandwidth, the kind and whether the filter runs: each detector, the digital ones below the threshold, at it, and for a
bandwidth that is NaN. -/
def detectors : List (Nat × Real64 × ModeKind × Bool) :=
  [ (3, .zero, .ssbcw, true), (4, .zero, .am, true), (5, .zero, .fm, true), (7, .zero, .digSum, true),
    (8, .ofNat 2000, .digSum, false), (9, .zero, .digRaw, true), (9, ⟨0x7FF8000000000000⟩, .digRaw, false) ]

/-- Every detector over a decimating stage: without a refresh, with one on the same table, with one on a table of another length. -/
theorem witness_DemodCompletes :
    ∀ k ∈ detectors, ∀ r ∈ [((2 : BitVec 16), Real64.zero, false), (2, .half, true), (1, .zero, true)],
      let s := tuner k.1 r.1 k.2.1 r.2.1
      demodChecks s (.fresh .cplx) = true ∧ s.demodKind 0 = k.2.2.1 ∧ decide (s.FilterUsed 0) = k.2.2.2 ∧
        decide ((s.bank 0).demod.Stale (s.bankRegs 0)) = r.2.2 ∧ s.sm.wf = true ∧ s.BufferOk s.opN ∧
        (s.demodStream 0).length = 1 := by decide +kernel

/-- Two of these states, under the hypotheses as the statements write them. -/
theorem witness_detectors :
    ((tuner 4 1 .zero .zero).DemodReady 0 ∧ (tuner 4 1 .zero .zero).DemodFinite 0) ∧
      (tuner 5 2 .zero .half).DemodReady 0 ∧ (tuner 5 2 .zero .half).DemodFinite 0 :=
  ⟨demod_of_checks (h := .fresh .cplx) (by decide +kernel), demod_of_checks (h := .fresh .cplx) (by decide +kernel)⟩

/-- With room for every output, and with a buffer that grows; with a `MAXBLOCK` of 5 the second stage is cut. -/
theorem witness_RestoreInterpolates :
    (ready.bank 0).demod.valid = true ∧ (∀ x ∈ (ready.bank 0).demod.int, x.Ok ready.cfg) ∧
      ready.StagesReady (ready.bank 0).demod.int ∧ ready.allocOk = true ∧
      ready.opN * stagesRatio (ready.bank 0).demod.int ≤ ready.cfg.maxBlock ∧
      ready.BufferOk (max ready.opN (min (ready.opN * stagesRatio (ready.bank 0).demod.int) ready.cfg.maxBlock)) ∧
      (∀ z ∈ ready.input .real, z.isFinite = true) ∧
      ready.CascadeFinite ready.stageInterpolates (ready.bank 0).demod.int (ready.input .real) ∧
      (let s := { ready with cfg := { ready.cfg with maxBlock := 5 } };
        s.interpolationCut (s.bank 0).demod.int s.opN = true ∧ s.interpolatedCount (s.bank 0).demod.int s.opN = 4) := by
  refine ⟨rfl, busy_int, by unfold State.StagesReady; decide +kernel, by decide +kernel, by decide +kernel, by decide +kernel,
    by decide +kernel, ?_, by decide +kernel⟩
  change HBInst.AllFinite (.fresh .real) _ ∧ HBInst.AllFinite (.fresh .real) _ ∧ True
  decide +kernel

theorem witness_TransmitCompletes :
    0 < ready.nbanks ∧ ready.cfg.txBundle = true ∧ (ready.bankRegs 0).mode.toNat ≤ 12 ∧ ready.BufferOk ready.cfg.maxBlock ∧
      ready.sm.wf = true ∧ (ready.bank 0).tx.valid = true ∧
      ∀ v ∈ ((List.range ready.opN).map fun k => (ready.sm.read (ready.opA + k)).re) ++
        [ready.cr.micPreemph, ready.cr.micClip, ready.cr.micVox], v.isFinite = true := by decide +kernel

theorem witness_ComponentsAreInitialised :
    let s := args busy 0x40E7700000000000 0 0 0
    1 < s.nbanks ∧ s.allocOk = true ∧ s.opReal.isPos = true ∧ s.cr.agcRelGain.isPos = true ∧
      (s.cfg.agcLookahead.mul s.opReal).roundHalfUp? = some 3 ∧ s.cfg.rateHz s.cr.rateIn.toNat = some 96000 ∧
      (s.cfg.nbTime.mul (.ofNat 96000)).roundHalfUp? = some 48 ∧ 48 ≤ s.cfg.maxBlock := by decide +kernel

theorem witness_AgcrunCompletes :
    ready.sm.wf = true ∧ ready.BufferOk ready.opN ∧ (ready.bank 0).agc.valid = true ∧ (ready.bank 0).agc.Ok ∧
      ready.AgcRegistersOk ∧ ∀ z ∈ ready.input .real ++ (ready.bank 0).agc.buf, z.isFinite = true := by decide +kernel

/-- A level below the limit, and one above it; a correction that runs; the end of a revolution, with and without a peak. -/
theorem witness_AgcOneSample :
    (let s := block busy 16 [c 10];
      let g := (s.bank 0).agc;
      s.opN = 1 ∧ s.BufferOk s.opN ∧ (s.sm.read s.opA).isFinite = true ∧ (g.buf.getD g.indexRead .zero).isFinite = true ∧
        s.AgcRegistersOk ∧ s.cr.agcMaxOut.lt ((s.sm.read s.opA).re.abs.mul g.gain) = false ∧
        ({ g with clipping := true }).Ok ∧ ({ g with indexRead := 1, fm := true }).Ok ∧ (1 + 1) % g.len = g.indexStart ∧
        g.maxMag.lt (.ofNat 10) = true ∧ g.maxMag.lt .zero = false ∧ g.maxMag.eqv .zero = true) ∧
      (let s := block busy 16 [c 200];
        s.cr.agcMaxOut.lt ((s.sm.read s.opA).re.abs.mul (s.bank 0).agc.gain) = true) := by decide +kernel

theorem witness_BlankerRuns_off :
    let s := { ready with cr := { ready.cr with nbLevel := 0 } }
    1 < s.nbanks ∧ s.BufferOk s.opN ∧ s.cr.nbLevel = 0 ∧ (s.bank 1).nb.valid = false := by decide +kernel

theorem witness_BlankerRuns :
    ready.sm.wf = true ∧ ready.BufferOk ready.opN ∧ ready.cr.nbLevel ≠ 0 ∧ (ready.bank 0).nb.valid = true ∧
      (ready.bank 0).nb.Ok ∧ (ready.bank 0).nb.st = .normal ∧ (ready.bank 0).nb.seen + ready.opN ≤ (ready.bank 0).nb.w ∧
      ∀ z ∈ ready.input .cplx ++ (ready.bank 0).nb.bufS, z.isFinite = true := by decide +kernel

/-- One sample of level 20, its square root listed. -/
def pulse : State :=
  block { busy with cfg := { busy.cfg with num := { busy.cfg.num with sqrt := [(.ofNat 400, .ofNat 20)] } } } 16 [c 20]

/-- The blanker of `pulse` with a full line of level 1, in a state. -/
def lined (m : NBMode) : NBState :=
  { (pulse.bank 0).nb with
    bufS := List.replicate 4 (c 1), bufM := List.replicate 4 .one, sum := .ofNat 4, st := m, ramp := 1, seen := 4 }

/-- One sample of level 20 over a full line of level 1, by the square root of 400: a pulse, from each state. -/
theorem witness_BlankerOneSample :
    (pulse.sm.wf = true ∧ pulse.BufferOk pulse.opN ∧ pulse.opN = 1 ∧ pulse.cr.nbLevel ≠ 0) ∧
      ((lined .normal).valid = true ∧ (lined .normal).Ok ∧ (lined .pulseActive).Ok ∧ (lined .windowRaising).Ok) ∧
      (pulse.sm.read pulse.opA).isFinite = true ∧
      pulse.cfg.sqrt (((Real64.ofNat 20).mul (.ofNat 20)).add (Real64.zero.mul .zero)) = .ofNat 20 ∧
      ((lined .normal).w ≤ (lined .normal).seen ∧
        (((((lined .normal).sum.sub .one).add (.ofNat 20)).div (.ofNat (lined .normal).w)).mul pulse.cfg.nbThresh1).lt (.ofNat 20) = true) ∧
      ∀ z ∈ (lined .normal).bufS, z.isFinite = true :=
  ⟨by decide +kernel, by decide +kernel, by decide +kernel, by decide +kernel, by decide +kernel, by decide +kernel⟩

/-- Eight zero bins. -/
def bins : List Cplx := List.replicate 8 .zero

/-- One sample short of a hop, the silent transforms and their square root listed. -/
def hopping : State :=
  let cfg := { busy.cfg with num := { busy.cfg.num with fft := [(bins, bins)], ifft := [(bins, bins)], sqrt := [(.zero, .zero)] }, anExtraDelay := 1 }
  let notch := { (busy.bank 0).notch with fill := 3, dly := [.one] }
  block { busy with cfg := cfg, chans := busy.chans.set 0 { bank := { busy.bank 0 with notch := notch } } } 16 [c 0]

/-- No hop, and a block that completes one; both with the clause on the buffer. -/
theorem witness_AnrunCounts :
    (1 ≤ ready.cfg.anB ∧ ready.BufferOk (min (ready.opN + ready.cfg.anB - 1) ready.cfg.maxBlock) ∧
      (ready.bank 0).notch.valid = true ∧ (ready.bank 0).notch.fill < ready.cfg.anB ∧
      (ready.bank 0).notch.blk.length = ready.cfg.anNfft ∧ ready.cfg.anB ≤ ready.cfg.anNfft) ∧
      ready.NotchFinite ∧
      (hopping.BufferOk (min (hopping.opN + hopping.cfg.anB - 1) hopping.cfg.maxBlock) ∧
        hopping.cfg.anB ≤ (hopping.bank 0).notch.fill + hopping.opN ∧
        (hopping.bank 0).notch.blk.length = hopping.cfg.anNfft) ∧
      hopping.NotchFinite :=
  ⟨by decide +kernel, by unfold State.NotchFinite; decide +kernel, by decide +kernel, by unfold State.NotchFinite; decide +kernel⟩

/-- The block the hop transforms. -/
def hopBlk : List Real64 := (hopping.bank 0).notch.blk.set 7 (hopping.sm.read hopping.opA).re

/-- A silent hop through a delay line of one sample: every average 0, the first candidate bin 1. -/
theorem witness_NotchHop :
    (hopping.configOk = true ∧ hopping.sm.wf = true ∧ hopping.opN = 1 ∧ hopping.BufferOk hopping.cfg.anB ∧
        hopping.cfg.anB ≤ hopping.cfg.maxBlock ∧ hopping.cr.sidetoneFreq.isFinite = true ∧
        hopping.cr.sidetoneFreq.abs.eqv .zero = true) ∧
      ((hopping.bank 0).notch.valid = true ∧ (hopping.bank 0).notch.Ok hopping.cfg ∧
        (hopping.bank 0).notch.fill + 1 = hopping.cfg.anB) ∧
      hopping.cfg.fft (hopBlk.map fun v => ⟨v, .zero⟩) = bins ∧
      (Real64.zero.add (hopping.cfg.anBeta.mul
        ((hopping.cfg.sqrt ((Real64.zero.mul .zero).add (Real64.zero.mul .zero))).sub .zero))).isNaN = false ∧
      (∀ w ∈ hopBlk, w.isFinite = true) ∧ (∀ z ∈ (hopping.bank 0).notch.kernel, z.isFinite = true) ∧
      ((hopping.bank 0).notch.dly = [.one] ∧
        ∀ i < 4, (([Real64.one] ++ (List.range 4).map fun i => ((hopping.cfg.ifft bins).getD (4 + i) .zero).re).getD i
          .zero).isFinite = true) ∧
      Loudest (fun _ => .zero) (fun k => 1 ≤ k ∧ k < 4) (some 1) :=
  ⟨by decide +kernel, by decide +kernel, by decide +kernel, by decide +kernel, by decide +kernel, by decide +kernel,
    by decide +kernel, ⟨by decide, fun j hj =>
      ⟨(by decide +kernel : Real64.zero.lt .zero = false), fun h => absurd h (by omega)⟩⟩⟩

/-- The key up and down. -/
theorem witness_PiperxCompletes :
    (let s := { ready with a2 := 64 };
      (∀ c ∈ s.pipeChecks 0, c.ok = true) ∧ s.allocOk = true ∧ s.cr.keyDown = false ∧ (s.bank 0).key.st = .rx) ∧
      (let s := { ready with a2 := 64, cr := { ready.cr with keyDown := true } };
        (∀ c ∈ s.pipeChecks 0, c.ok = true) ∧ s.cr.keyDown = true) := by decide +kernel

/-- PIPERX reads finite values only, its fade and hold lengths defined. -/
theorem witness_PiperxStages :
    let s := { ready with a2 := 64 }
    s.sm.wf = true ∧ (∀ c ∈ s.pipeChecks 0, c.ok = true) ∧ s.allocOk = true ∧
      s.cfg.rateHz (s.bank 0).chain.rateId = some 96000 ∧ s.PipeFinite 0 ∧
      (s.cfg.fadeTime.mul (.ofNat (s.cfg.canon * s.cfg.outFactor))).roundHalfUp? = some 240 ∧
      (s.cr.holdDelay.mul (.ofNat (s.cfg.canon * s.cfg.outFactor))).roundHalfUp? = some 0 ∧ (s.bank 0).key.st = .rx :=
  ⟨by decide +kernel, by decide +kernel, by decide +kernel, by decide +kernel, by unfold State.PipeFinite; decide +kernel,
    by decide +kernel, by decide +kernel, rfl⟩

/-- The same state meets the hypotheses of composition: always-open squelch, real interpolating stages. -/
theorem witness_PiperxIsItsCommands :
    let s := { ready with a2 := 64 }
    s.configOk = true ∧ s.allocs = [] ∧ (s.bank 0).key.lvl = 0 ∧ s.cr.keyDown = false ∧ (s.latchedMode 0).kind = .ssbcw ∧
      (s.latchedMode 0).agcOnBaseband = false ∧ s.cfg.squelch = some true ∧
      (s.bank 0).demod.int = [.hb (.fresh .real), .hb (.fresh .real)] ∧
      (s.bank 0).chain.achRate.eqv (s.bank 0).demod.inRate = true ∧ ¬s.NotchRuns 0 := by decide +kernel

theorem witness_HousekeepingCommands : 0 < busy.nbanks ∧ 1 < busy.nbanks := by decide +kernel

end Sys2Proof.Tests
end

section
/-! PROOFS. FTUNE (spec/40_filter_engine.md, R165): the table it installs, tap by tap; and what completing a command without
output leaves. -/

namespace Sys2Proof.Machine

/-! ### Values that are not finite (R11) -/

theorem anyNonFiniteReal_eq_false (x : List Real64) : anyNonFiniteReal x = false ↔ ∀ v ∈ x, v.isFinite = true := by
  simp [anyNonFiniteReal]

/-! ### The ends of a command and its dispatch -/

theorem exec_ftune (l : Bool) (id : Nat) (s : State) : exec (.ftune l id) s = execFtune l id s := rfl
theorem exec_fapply (id : Nat) (s : State) : exec (.fapply id) s = execFapply id s := rfl
theorem exec_dminit (id : Nat) (s : State) : exec (.dminit id) s = execDminit id s := rfl

/-- A command without sample output completes, whatever it did to other fields than the control registers. -/
theorem State.completed_finishInit {s u : State} (h : u.cr = s.cr) : s.Completed u.finishInit 0 0 false := by
  simp [State.Completed, Status.ofTrunc, h]

/-! ### The tuned table -/

@[simp] theorem tune_length (p : Params) (c : List Real64) (f : Real64) (l : Bool) : (tune p c f l).length = c.length := by
  simp [tune]

theorem tune_getD (p : Params) (c : List Real64) (f : Real64) (l : Bool) {i : Nat} (h : i < c.length) :
    (tune p c f l).getD i .zero = tunedTap p c.length f l i (c.getD i .zero) := by
  simp [tune, h]

/-- The table FTUNE installs: the rule's taps, free ones for a prototype that is not finite (R11, R165). -/
def State.tunedFor (s : State) (f : FilterInst) (l : Bool) : List Cplx :=
  let t := tune s.cfg (s.coefs f) s.opReal l
  if anyNonFiniteReal (s.coefs f) then freeSamples s.draws placeFilter .cplx allWritten t else t

@[simp] theorem State.tunedFor_length (s : State) (f : FilterInst) (l : Bool) :
    (s.tunedFor f l).length = (s.coefs f).length := by
  unfold State.tunedFor
  split <;> simp

theorem State.tunedFor_of_finite {s : State} {f : FilterInst} (l : Bool) (h : ∀ v ∈ s.coefs f, v.isFinite = true) :
    s.tunedFor f l = tune s.cfg (s.coefs f) s.opReal l := by
  simp [State.tunedFor, (anyNonFiniteReal_eq_false _).mpr h]

/-- FTUNE of a complex filter that is ready, with a finite frequency and memory to allocate. -/
theorem exec_ftune_of_ready {s : State} {id : Nat} (l : Bool) (hid : id < s.nfilt) (hq : s.opReal.isFinite = true)
    (hf : s.FilterReady (s.filter id)) (hv : (s.filter id).variant = .cplx) (ha : s.allocOk = true) :
    exec (.ftune l id) s =
      .next (s.consulted.setFilter id { s.filter id with tuned := some (s.tunedFor (s.filter id) l) }).finishInit := by
  obtain ⟨hb, -, ht⟩ := hf
  dsimp only [exec_ftune, execFtune]
  rw [State.checked_pass, State.allocating_pass fun _ => ha]
  · rfl
  · simp [idCheck, finiteCheck, boundCheck, State.tableCheck, hid, hq, hb, ht, hv]

/-- Settles O28: the table FTUNE installs is `tune`'s, read tap by tap. -/
theorem ftuneTable : Obligations.FtuneTable := by
  intro s l id hid hq hf hv ha
  have hlen : (s.coefs (s.filter id)).length = (s.filter id).taps := State.coefs_length hf.2.2
  refine ⟨_, s.tunedFor (s.filter id) l, exec_ftune_of_ready l hid hq hf hv ha, State.completed_finishInit rfl, ?_, ?_, ?_⟩
  · exact congrArg FilterInst.tuned (State.filter_setFilter_self s.consulted id _ hid)
  · rw [State.tunedFor_length, hlen]
  · intro hfin i hi
    rw [State.tunedFor_of_finite l hfin, tune_getD _ _ _ _ (hlen ▸ hi), hlen]
    cases l <;> rfl

end Sys2Proof.Machine
end

section
/-! PROOFS. FAPPLY on any values (spec/00_scope.md R11, spec/40_filter_engine.md R163, R168): what the inputs do to the history,
which of its entries a block leaves alone, and what the command commits whether or not it read a value that is not finite. -/

namespace Sys2Proof.Machine

/-! ### The entries of a circular buffer that a block writes -/

theorem mod_of_lt_two_mul {a len : Nat} (h : a < 2 * len) : a % len = if a < len then a else a - len := by
  split
  · exact Nat.mod_eq_of_lt ‹_›
  · rw [Nat.mod_eq_sub_mod (by omega), Nat.mod_eq_of_lt (by omega)]

/-- One entry more is written: the one at the start, and then those from the next position on. -/
theorem circWritten_succ {start count len i : Nat} (hs : start < len) (hi : i < len) :
    circWritten start (count + 1) len i = true ↔ i = start ∨ circWritten ((start + 1) % len) count len i = true := by
  simp only [circWritten, decide_eq_true_eq]
  rw [mod_of_lt_two_mul (a := start + 1) (by omega)]
  split <;> rw [mod_of_lt_two_mul (by omega), mod_of_lt_two_mul (by omega)] <;> split <;> split <;> omega

/-- The entry read `q` steps before the new cursor is the one `q - count` steps before the old cursor. -/
theorem newestIndex_after {cur count len q : Nat} (hc : cur < len) (hq : count < q) (hl : q ≤ len) :
    ((cur + count) % len + len - q) % len = (cur + len - (q - count)) % len := by
  rw [mod_of_lt_two_mul (a := cur + count) (by omega)]
  split <;> rw [mod_of_lt_two_mul (by omega), mod_of_lt_two_mul (by omega)] <;> split <;> split <;> omega

/-- A block leaves alone what lies further back than its own length. -/
theorem circWritten_newest {cur count len q : Nat} (hc : cur < len) (hq : count < q) (hl : q ≤ len) :
    circWritten cur count len ((cur + len - (q - count)) % len) = false := by
  simp only [circWritten, decide_eq_false_iff_not]
  rw [mod_of_lt_two_mul (a := cur + len - (q - count)) (by omega)]
  split <;> rw [mod_of_lt_two_mul (by omega)] <;> split <;> omega

/-! ### What inputs do to a filter -/

/-- The filter after a sequence of inputs, each written at the cursor (R163). -/
def FilterInst.takes (f : FilterInst) (x : List Cplx) : FilterInst := x.foldl (fun g z => (g.put z).advance) f

theorem firApply_f (tb : List Real64) (f : FilterInst) (x : List Cplx) : (firApply tb f x).f = f.takes x := by
  induction x generalizing f with
  | nil => rfl
  | cons z x ih => exact ih (f.put z).advance

theorem FilterInst.takes_cur (f : FilterInst) (x : List Cplx) (h : f.cur < f.taps) :
    (f.takes x).cur = (f.cur + x.length) % f.taps := by
  induction x generalizing f with
  | nil => exact (Nat.mod_eq_of_lt h).symm
  | cons z x ih =>
    have hpos : 0 < f.taps := Nat.zero_lt_of_lt h
    calc (f.takes (z :: x)).cur = ((f.cur + 1) % f.taps + x.length) % f.taps := ih (f.put z).advance (Nat.mod_lt _ hpos)
      _ = (f.cur + (z :: x).length) % f.taps := by simp [Nat.add_assoc, Nat.add_comm 1]

/-- The entries a block does not write keep their values. -/
theorem FilterInst.takes_hist_kept (f : FilterInst) (x : List Cplx) {i : Nat} (h : f.cur < f.taps) (hi : i < f.taps)
    (hw : circWritten f.cur x.length f.taps i = false) : (f.takes x).hist.getD i .zero = f.hist.getD i .zero := by
  induction x generalizing f with
  | nil => rfl
  | cons z x ih =>
    have hsplit := (not_congr (circWritten_succ h hi)).mp ((Bool.not_eq_true _).mpr hw)
    obtain ⟨hne, hrest⟩ := not_or.mp hsplit
    calc (f.takes (z :: x)).hist.getD i .zero = (f.hist.set f.cur z).getD i .zero :=
          ih (f.put z).advance (Nat.mod_lt _ (Nat.zero_lt_of_lt h)) hi ((Bool.not_eq_true _).mp hrest)
      _ = f.hist.getD i .zero := by simp [Ne.symm hne]

/-- Real inputs keep a real history real. -/
theorem FilterInst.takes_hist_im (f : FilterInst) (x : List Cplx) (hf : ∀ z ∈ f.hist, z.im = .zero)
    (hx : ∀ z ∈ x, z.im = .zero) : ∀ z ∈ (f.takes x).hist, z.im = .zero := by
  induction x generalizing f with
  | nil => exact hf
  | cons y x ih =>
    refine ih (f.put y).advance (fun z hz => ?_) fun z hz => hx z (by simp [hz])
    rcases List.mem_or_eq_of_mem_set hz with hz | rfl
    · exact hf z hz
    · exact hx z (by simp)

theorem FilterInst.eq_of_sameShape {f g : FilterInst} (h : f.sameShape g) (hp : g.phase = f.phase) :
    g = { f with hist := g.hist, cur := g.cur } := by
  obtain ⟨hb, hv, ht, hn, hu, hs, -⟩ := h
  cases g
  simp_all

/-! ### What FAPPLY commits -/

/-- The filter FAPPLY commits: with the history values it wrote free when it read one that is not finite (R11). -/
def FilterInst.applied (f : FilterInst) (ser : Nat) (tb : List Real64) (x : List Cplx) (bad : Bool) : FilterInst :=
  (firRun ser placeFilter f x (firApply tb f x)).commit bad

section
variable (f : FilterInst) (ser : Nat) (tb : List Real64) (x : List Cplx) (bad : Bool)

theorem FilterInst.applied_hist : (f.applied ser tb x bad).hist =
    if bad then freeSamples ser placeFilter f.variant (circWritten f.cur x.length f.taps) (f.takes x).hist
    else (f.takes x).hist := by
  obtain ⟨-, he, -, ⟨-, hv, -, hn, -⟩, -⟩ := firApply_spec tb f x
  cases bad
  · exact congrArg FilterInst.hist (firApply_f tb f x)
  · rw [firApply_f] at hv hn
    simp [FilterInst.applied, firRun, FilterInst.freed, he, hv, hn, firApply_f]

theorem FilterInst.applied_sameShape : f.sameShape (f.applied ser tb x bad) := by
  obtain ⟨-, -, -, hs, -⟩ := firApply_spec tb f x
  cases bad
  · exact hs
  · simpa [FilterInst.sameShape, FilterInst.applied, firRun, FilterInst.freed] using hs

theorem FilterInst.applied_taps : (f.applied ser tb x bad).taps = f.taps := by
  obtain ⟨-, -, -, hn, -⟩ := f.applied_sameShape ser tb x bad
  exact hn

theorem FilterInst.applied_hist_length : (f.applied ser tb x bad).hist.length = f.hist.length := by
  obtain ⟨-, -, -, -, -, -, hl⟩ := f.applied_sameShape ser tb x bad
  exact hl

theorem FilterInst.applied_phase : (f.applied ser tb x bad).phase = f.phase := by
  obtain ⟨-, -, -, -, hp⟩ := firApply_spec tb f x
  cases bad <;> exact hp

theorem FilterInst.applied_cur (h : f.cur < f.taps) : (f.applied ser tb x bad).cur = (f.cur + x.length) % f.taps := by
  rw [← f.takes_cur x h, ← firApply_f tb f x]
  cases bad <;> rfl

theorem FilterInst.applied_eq (h : f.cur < f.taps) :
    f.applied ser tb x bad =
      { f with hist := (f.applied ser tb x bad).hist, cur := (f.cur + x.length) % f.taps } := by
  rw [← f.applied_cur ser tb x bad h]
  exact FilterInst.eq_of_sameShape (f.applied_sameShape ser tb x bad) (f.applied_phase ser tb x bad)

/-- Samples older than the block are those the history held. -/
theorem FilterInst.applied_newest (h : f.cur < f.taps) {q : Nat} (hq : x.length < q) (hl : q ≤ f.taps) :
    (f.applied ser tb x bad).newest q = f.newest (q - x.length) := by
  have hold := circWritten_newest h hq hl
  have hkept := f.takes_hist_kept x h (Nat.mod_lt _ (Nat.zero_lt_of_lt h)) hold
  rw [FilterInst.newest, FilterInst.newest, f.applied_cur ser tb x bad h, FilterInst.applied_taps,
    newestIndex_after h hq hl, FilterInst.applied_hist]
  cases bad
  · exact hkept
  · exact (freeSamples_getD_kept _ _ _ _ _ _ hold).trans hkept

theorem FilterInst.applied_hist_im (hv : f.variant = .real) (hf : ∀ z ∈ f.hist, z.im = .zero)
    (hx : ∀ z ∈ x, z.im = .zero) : ∀ z ∈ (f.applied ser tb x bad).hist, z.im = .zero := by
  rw [FilterInst.applied_hist, hv]
  cases bad
  · exact f.takes_hist_im x hf hx
  · exact freeSamples_real_im _ _ _ _ (f.takes_hist_im x hf hx)

end

/-! ### What FAPPLY writes -/

theorem State.input_real_im (s : State) : ∀ z ∈ s.input .real, z.im = .zero :=
  outputAs_real_im (s.sm.readBlock s.opA s.opN)

theorem emitted_real_im (ser : Nat) (bad : Bool) (out : List Cplx) : ∀ z ∈ emitted ser .real bad out, z.im = .zero := by
  cases bad
  · exact outputAs_real_im out
  · exact freeSamples_real_im _ _ _ _ (outputAs_real_im out)

/-- The run of FAPPLY on its filter and its block. -/
def State.fapplyRun (s : State) (id : Nat) : Run FilterInst :=
  let f := s.filter id
  let x := s.input f.variant
  firRun s.draws placeFilter f x (firApply (s.coefs f) f x)

/-- The samples FAPPLY writes. -/
def State.fapplyOut (s : State) (id : Nat) : List Cplx :=
  emitted s.draws (s.filter id).variant (s.fapplyRun id).bad (s.fapplyRun id).out

@[simp] theorem State.fapplyOut_length (s : State) (id : Nat) : (s.fapplyOut id).length = s.opN := by
  simp [State.fapplyOut, State.fapplyRun, firRun, (firApply_spec _ _ _).1]

theorem State.fapplyOut_real_im {s : State} {id : Nat} (hv : (s.filter id).variant = .real) :
    ∀ z ∈ s.fapplyOut id, z.im = .zero := by
  rw [State.fapplyOut, hv]
  exact emitted_real_im _ _ _

/-- The filter FAPPLY leaves. -/
def State.fapplyFilter (s : State) (id : Nat) : FilterInst :=
  let f := s.filter id
  f.applied s.draws (s.coefs f) (s.input f.variant) (s.fapplyRun id).bad

/-- FAPPLY on a buffer that fits, of a filter that is ready. -/
theorem exec_fapply_of_ready {s : State} {id : Nat} (hid : id < s.nfilt) (hb : s.BufferOk s.opN)
    (hf : s.FilterReady (s.filter id)) :
    exec (.fapply id) s = .next ((s.setFilter id (s.fapplyFilter id)).finishBuf s.opA (s.fapplyOut id) 0) := by
  obtain ⟨hbound, -, ht⟩ := hf
  obtain ⟨-, -, htr, ⟨-, hv, -⟩, -⟩ := firApply_spec (s.coefs (s.filter id)) (s.filter id) (s.input (s.filter id).variant)
  have hchecks : ∀ c ∈ s.filterChecks id (extentSame s.opN) [], c.ok = true := by
    simp only [State.filterChecks, List.append_nil, List.cons_append, List.nil_append, List.forall_mem_cons, idCheck_ok,
      State.sizeCheck_ok, State.boundsCheck_ok, boundCheck_ok, State.tableCheck]
    exact ⟨hid, hb.1, hb.2, hbound, ht, by simp⟩
  dsimp only [exec_fapply, execFapply]
  rw [State.checked_pass hchecks]
  simp only [State.finishFilter, firRun, hv, htr]
  rfl

/-- Settles O33: FAPPLY commits `applied` whatever it read, and writes as many samples as it read. -/
theorem freeValuesKeepCounts : Obligations.FreeValuesKeepCounts := by
  intro s id hid hwf hmax hb hf
  obtain ⟨hbound, hok, ht⟩ := hf
  obtain ⟨-, -, -, hcur, -, hreal⟩ := hok hbound
  have hself : ((s.setFilter id (s.fapplyFilter id)).finishBuf s.opA (s.fapplyOut id) 0).filter id = s.fapplyFilter id :=
    s.filter_setFilter_self id (s.fapplyFilter id) hid
  have hlen := s.input_length (s.filter id).variant
  have hr0 : BitVec.ofNat 64 (s.fapplyOut id).length = s.a1 := by simp [State.opN]
  refine ⟨_, exec_fapply_of_ready hid hb ⟨hbound, hok, ht⟩, ⟨hr0, rfl, rfl, rfl, by simp⟩, ?_, ?_, ?_, ?_, ?_, ?_, ?_⟩
  · simp [State.finishBuf, State.finish, State.setFilter, Status.ofTrunc, State.opN]
  · intro a ha
    simp only [State.finishBuf_sm, State.setFilter_sm]
    rw [Mem.read_writeBlock _ _ _ _ hwf, State.fapplyOut_length, if_neg ha]
  · exact fun j hj => s.filter_setFilter_ne id j _ hj
  · rw [hself, ← hlen]
    exact FilterInst.applied_eq _ _ _ _ _ hcur
  · rw [hself]
    exact FilterInst.applied_hist_length _ _ _ _ _
  · intro q hq hl
    rw [hself]
    rw [← hlen] at hq ⊢
    exact FilterInst.applied_newest _ _ _ _ _ hcur hq hl
  · intro hv
    constructor
    · rw [hself]
      exact FilterInst.applied_hist_im _ _ _ _ _ hv (hreal hv).2 (hv ▸ s.input_real_im)
    · intro m hm
      simp only [State.finishBuf_sm, State.setFilter_sm]
      rw [Mem.read_writeBlock _ _ _ _ hwf, State.fapplyOut_length, if_pos (by omega), Nat.add_sub_cancel_left,
        List.getD_eq_getElem?_getD, List.getElem?_eq_getElem (by rwa [State.fapplyOut_length]), Option.getD_some]
      exact State.fapplyOut_real_im hv _ (List.getElem_mem _)

end Sys2Proof.Machine
end

section
/-! PROOFS. DMINIT (spec/43_demod_bank.md R252, R254): its rate factors and stage lists, its checks, and the demodulator it
installs, with every Real64 of it free for a prototype that is not finite (R11). -/

namespace Sys2Proof

/-! ### Factors and stage lists -/

theorem Real64.bits_low_of_units_eq_zero {x : Real64} (h : x.units = 0) : (x.bits.extractLsb' 0 63).toNat = 0 := by
  unfold Real64.units at h
  split at h
  case isTrue hexp =>
    simp only [Real64.expField, Real64.sigField, BitVec.extractLsb'_toNat, Nat.shiftRight_eq_div_pow] at h hexp ⊢
    omega
  case isFalse =>
    have hpos : 0 < (x.sigField + 2 ^ 52) * 2 ^ (x.expField - 1) :=
      Nat.mul_pos (Nat.add_pos_right _ (Nat.two_pow_pos 52)) (Nat.two_pow_pos _)
    rw [Nat.shiftLeft_eq] at h
    exact absurd h (Nat.ne_of_gt hpos)

/-- A positive value that is a natural number is at least 1. -/
theorem Real64.toNat?_pos {x : Real64} {k : Nat} (hx : x.isPos = true) (hk : x.toNat? = some k) : 1 ≤ k := by
  rcases Nat.eq_zero_or_pos k with rfl | hpos
  · exfalso
    have hunits : x.units = 0 := by
      simp only [Real64.toNat?, Option.ite_none_right_eq_some, Bool.and_eq_true, decide_eq_true_eq, Option.some.injEq] at hk
      obtain ⟨⟨-, hmod⟩, hdiv⟩ := hk
      rw [← Nat.div_add_mod x.units Real64.unit, hmod, hdiv, Nat.mul_zero]
    have hkey : x.key = 0 := by simp [Real64.key, Real64.bits_low_of_units_eq_zero hunits]
    have hzero : Real64.zero.key = 0 := by decide
    simp [Real64.isPos, Real64.lt, hkey, hzero] at hx
  · exact hpos

theorem decFactor_of_toNat? {x : Real64} {D fr : Nat} (hk : x.toNat? = some (D * fr)) (hpos : 1 ≤ D * fr) :
    decFactor x fr = some D := by
  have hfr : 0 < fr := Nat.pos_of_mul_pos_left hpos
  have hD : 1 ≤ D := Nat.pos_of_mul_pos_right hpos
  simp [decFactor, hk, Nat.mul_div_cancel D hfr, hD, Nat.ne_of_gt hfr]

theorem Params.intFactor_of_mul {p : Params} {U fr : Nat} (h : U * fr = p.canon * p.outFactor) (hU : 1 ≤ U) (hfr : fr ≠ 0) :
    p.intFactor fr = some U := by
  simp [Params.intFactor, Params.outRate, ← h, Nat.mul_div_cancel U (Nat.pos_of_ne_zero hfr), hU, hfr]

theorem defaultStages_two_pow (k : Nat) : defaultStages (2 ^ k) = some (List.replicate k .hb) := by
  simp [defaultStages]

end Sys2Proof

namespace Sys2Proof.Machine

/-- A stage list that `MODE_TABLE` gives is the one the lookup with its default answers. -/
theorem StageListFor.lookup {listed : List (Nat × Option (List StageDesc))} {n : Nat} {ds : List StageDesc}
    (h : StageListFor listed n ds) : (listed.lookup n).getD (defaultStages n) = some ds := by
  rcases h with h | ⟨h, k, rfl, rfl⟩
  · rw [h, Option.getD_some]
  · rw [h, Option.getD_none, defaultStages_two_pow]

theorem State.descChecks_ok {s : State} {ds : List StageDesc} (h : s.SlotsFilled ds) : ∀ c ∈ s.descChecks ds, c.ok = true := by
  intro c hc
  obtain ⟨d, hd, heq⟩ := List.mem_filterMap.mp hc
  cases d with
  | hb => simp at heq
  | fir r t =>
    obtain rfl : s.slotCheck t = c := by simpa using heq
    exact h _ hd r t rfl

/-! ### What DMINIT installs -/

@[simp] theorem freedStages_length (ser : Nat) (p : Place) (st : List StageInst) :
    (freedStages ser p st).length = st.length := by
  simp [freedStages]

/-- The demodulator DMINIT installs: the fresh one, with free values for a prototype that is not finite. -/
def State.installedDemod (s : State) (id : Nat) : DemodState :=
  let d := s.freshDemod id (s.bankRegs id).mode.toNat s.opReal
  if anyNonFiniteReal (((s.table (s.bankRegs id).rxfTab.toNat).map Table.val).getD []) then d.freedAll s.draws else d

/-- The record of `MODE_TABLE` that the bank's mode register names. -/
def State.requestedMode (s : State) (id : Nat) : ModeRec := s.cfg.modeRec (s.bankRegs id).mode.toNat

/-- What DMINIT checks (R254), with the stage lists it finds. -/
structure State.DminitReady (s : State) (id : Nat) (ds us : List StageDesc) : Prop where
  bank : id < s.nbanks
  rate : s.opReal.isPos = true
  mode : (s.bankRegs id).mode.toNat ≤ 12
  semantics : (s.requestedMode id).kind ≠ .noSemantics
  codec : (s.requestedMode id).kind = .dv → s.cfg.codec = true
  dec : (s.requestedMode id).decList s.opReal = some ds
  int : s.cfg.intList (s.requestedMode id) = some us
  slot : (s.bankRegs id).rxfTab.toNat < s.ntab
  table : (s.table (s.bankRegs id).rxfTab.toNat).isSome = true
  slots : s.SlotsFilled (ds ++ us)
  freq : (s.bankRegs id).rxfFreq.isFinite = true

/-- DMINIT whose checks hold, with memory to allocate. -/
theorem exec_dminit_of_ready {s : State} {id : Nat} {ds us : List StageDesc} (h : s.DminitReady id ds us)
    (ha : s.allocOk = true) :
    exec (.dminit id) s =
      .next (s.consulted.setBank id { s.bank id with demod := s.installedDemod id }).finishInit := by
  have hdec := h.dec
  have hint := h.int
  have hcodec := Decidable.not_or_of_imp h.codec
  unfold State.requestedMode at hdec hint hcodec
  have hds : ∀ c ∈ s.descChecks ds, c.ok = true := State.descChecks_ok fun d hd => h.slots d (List.mem_append_left us hd)
  have hus : ∀ c ∈ s.descChecks us, c.ok = true := State.descChecks_ok fun d hd => h.slots d (List.mem_append_right ds hd)
  dsimp only [exec_dminit, execDminit]
  rw [State.checked_pass, State.allocating_pass fun _ => ha]
  · rfl
  · simp only [hdec, hint, Option.getD_some, List.forall_mem_append, List.forall_mem_cons, List.not_mem_nil, false_implies,
      implies_true, and_true, idCheck_ok, finiteCheck, State.slotCheck]
    exact ⟨⟨⟨⟨h.bank, h.rate, decide_eq_true h.mode, decide_eq_true h.semantics, by simpa using hcodec, rfl, rfl,
      decide_eq_true h.slot, h.table⟩, hds⟩, hus⟩, h.freq⟩

/-- The fields of the installed demodulator that hold no Real64 are those of the fresh one. -/
theorem State.installedDemod_counts (s : State) (id : Nat) :
    let d := s.installedDemod id
    let e := s.freshDemod id (s.bankRegs id).mode.toNat s.opReal
    d.valid = e.valid ∧ d.mode = e.mode ∧ d.rxfTab = e.rxfTab ∧ d.rxfLower = e.rxfLower ∧
      d.dec.length = e.dec.length ∧ d.int.length = e.int.length ∧ d.rxf.taps = e.rxf.taps ∧ d.rxf.cur = e.rxf.cur := by
  dsimp only [State.installedDemod]
  split
  · simp [DemodState.freedAll, FilterInst.freedTuned, FilterInst.freed]
  · simp

theorem State.installedDemod_of_finite {s : State} {id : Nat} {tb : Table}
    (ht : s.table (s.bankRegs id).rxfTab.toNat = some tb) (h : ∀ v ∈ tb.val, v.isFinite = true) :
    s.installedDemod id = s.freshDemod id (s.bankRegs id).mode.toNat s.opReal := by
  simp [State.installedDemod, ht, (anyNonFiniteReal_eq_false _).mpr h]

/-- The fresh demodulator, its lists and its prototype resolved. -/
theorem State.DminitReady.freshDemod_eq {s : State} {id : Nat} {ds us : List StageDesc} {tb : Table}
    (h : s.DminitReady id ds us) (htb : s.table (s.bankRegs id).rxfTab.toNat = some tb) :
    let c := s.bankRegs id
    let r := s.requestedMode id
    s.freshDemod id c.mode.toNat s.opReal =
      { valid := true, mode := c.mode.toNat, inRate := s.opReal, dec := ds.map (s.freshStage .cplx),
        rxf := { FilterInst.fresh .cplx c.rxfTab.toNat tb.val.length with
          tuned := some (tune s.cfg tb.val c.rxfFreq r.lower) },
        rxfTab := c.rxfTab.toNat, rxfFreq := c.rxfFreq, rxfLower := r.lower,
        int := us.map (s.freshStage (audioOf r.kind)),
        dv := if r.kind = .dv then Config.codecOpen c.mode.toNat else 0 } := by
  have hdec := h.dec
  have hint := h.int
  unfold State.requestedMode at hdec hint
  intro c r
  rw [State.freshDemod, hdec, hint, State.freshRxf, htb]
  rfl

/-- Settles O42: the lists are those the lookups answer, and the installed demodulator is the fresh one but for free values. -/
theorem dminitBuilds : Obligations.DminitBuilds := by
  intro s id D U ds us tb hid hrate hmode c m r hkind hdv hD hU hU1 hds hus htab htb hfreq hslots ha
  have hpos := Real64.toNat?_pos hrate hD
  have hfr : r.filterRate ≠ 0 := Nat.ne_of_gt (Nat.pos_of_mul_pos_left hpos)
  have hdec : r.decList s.opReal = some ds := by
    rw [ModeRec.decList, decFactor_of_toNat? hD hpos]
    exact hds.lookup
  have hint : s.cfg.intList r = some us := by
    rw [Params.intList, Params.intFactor_of_mul hU hU1 hfr]
    exact hus.lookup
  have hready : s.DminitReady id ds us :=
    { bank := hid, rate := hrate, mode := hmode, semantics := hkind, codec := hdv, dec := hdec, int := hint, slot := htab,
      table := Option.isSome_of_eq_some htb, slots := hslots, freq := hfreq }
  have hfresh := hready.freshDemod_eq htb
  have hdemod : (((s.consulted.setBank id { s.bank id with demod := s.installedDemod id }).finishInit).bank id).demod =
      s.installedDemod id :=
    congrArg (fun k : Channel => k.bank.demod) (State.chan_setBank_self s.consulted id _ hid)
  refine ⟨_, exec_dminit_of_ready hready ha, State.completed_finishInit rfl, ?_, ?_⟩
  · rw [hdemod]
    have hcounts := s.installedDemod_counts id
    simp only [hfresh, List.length_map] at hcounts
    exact hcounts
  · intro hfin
    rw [hdemod, State.installedDemod_of_finite htb hfin]
    exact hfresh

end Sys2Proof.Machine
end

section
/-! PROOFS. Command words (spec/30_encoding.md R120, R121, R124, R130, R140): the decoder answers a command exactly on the word whose
three fields are the command's, and a row's mask and match ask exactly for the command's opcode and legal flags. -/

namespace Sys2Proof

/-! ### The fields of a word -/

theorem Word32.toNat_eq_fields (w : Word32) : w.toNat = (w.op * 256 + w.fl) * 65536 + w.idField := by
  simp only [Word32.op, Word32.fl, Word32.idField, BitVec.extractLsb'_toNat, Nat.shiftRight_eq_div_pow]
  omega

theorem Word32.idField_lt (w : Word32) : w.idField < 65536 := (w.extractLsb' 0 16).isLt

theorem Instr.opcode_lt (i : Instr) : i.opcode < 256 := by
  cases i <;> simp [Instr.opcode]

/-! ### The lookup of R121 -/

theorem decodePlain_eq_some {fl : Nat} {i j : Instr} : decodePlain fl i = some j ↔ fl = 0 ∧ i = j := by
  simp [decodePlain]

theorem decodeFlag_eq_some {fl : Nat} {mk : Bool → Instr} {j : Instr} :
    decodeFlag fl mk = some j ↔ ∃ b : Bool, fl = b.toNat ∧ mk b = j := by
  unfold decodeFlag
  split
  case isTrue h => simp [h]
  case isFalse h =>
    split
    case isTrue h1 => simp [h1]
    case isFalse h1 => simp [h, h1]

/-- The fields of a command decode to it. -/
theorem decodeFields_of_instr (i : Instr) : decodeFields i.opcode i.flag.toNat i.id = some i := by
  cases i
  case finit b _ | ftune b _ | hbinit b _ | chsel b _ | agcinit b _ | agcrun b _ => cases b <;> rfl
  all_goals rfl

/-- Only the fields of a command decode to it. -/
theorem fields_of_decodeFields {op fl id : Nat} {i : Instr} (h : decodeFields op fl id = some i) :
    op = i.opcode ∧ fl = i.flag.toNat ∧ id = i.id := by
  unfold decodeFields at h
  split at h
  case h_2 | h_3 | h_8 | h_11 | h_19 | h_20 =>
    obtain ⟨b, rfl, rfl⟩ := decodeFlag_eq_some.mp h
    exact ⟨rfl, rfl, rfl⟩
  case h_27 => cases h
  all_goals
    obtain ⟨rfl, rfl⟩ := decodePlain_eq_some.mp h
    exact ⟨rfl, rfl, rfl⟩

theorem decode_eq_some {w : Word32} {i : Instr} :
    decode w = some i ↔ w.op = i.opcode ∧ w.fl = i.flag.toNat ∧ w.idField = i.id := by
  constructor
  · exact fields_of_decodeFields
  · rintro ⟨hop, hfl, hid⟩
    rw [decode, hop, hfl, hid, decodeFields_of_instr]

/-- The word of the command a word decodes to is the word itself. -/
theorem encode_of_decode {w : Word32} {i : Instr} (h : decode w = some i) : encode i = w ∧ i.wellFormed = true := by
  obtain ⟨hop, hfl, hid⟩ := decode_eq_some.mp h
  have hlt : i.id < 65536 := hid ▸ w.idField_lt
  refine ⟨BitVec.eq_of_toNat_eq ?_, decide_eq_true hlt⟩
  rw [Laws.WordFields.encode_toNat i i.opcode_lt hlt, w.toNat_eq_fields, hop, hfl, hid]

/-- Settles O1: the word of a command has its fields, and the decoder looks them up. -/
theorem decodeOfEncode : Obligations.DecodeOfEncode := fun i hw =>
  decode_eq_some.mpr (Laws.WordFields.of_opcode i i.opcode_lt hw)

/-- Settles O3, by evaluating the decoder on each word. -/
theorem decodedWords : Obligations.DecodedWords := by
  unfold Obligations.DecodedWords
  decide

/-! ### The rows of R130 -/

/-- The command's row defines the flag bit `FL[0]` (R124). -/
def Instr.hasFlag : Instr → Bool
  | .finit _ _ | .ftune _ _ | .hbinit _ _ | .chsel _ _ | .agcinit _ _ | .agcrun _ _ => true
  | _ => false

theorem Instr.flag_of_hasFlag_false {i : Instr} (h : i.hasFlag = false) : i.flag = false := by
  cases i <;> simp_all [Instr.hasFlag, Instr.flag]

end Sys2Proof

namespace Sys2Proof.Machine

/-- The row of a command: its opcode, and a mask that leaves out `ID` and a defined flag bit. -/
def rowOf (i : Instr) : OpcodeRow :=
  { mnemonic := mnemonicOf i
    pattern := BitVec.ofNat 32 (i.opcode * 2 ^ 24)
    mask := BitVec.allOnes 32 <<< if i.hasFlag then 17 else 16 }

/-- The commands of R130 in the order of its rows, by their flag and `ID`. -/
def commands : List (Bool → Nat → Instr) :=
  [ fun _ => .nop, .finit, .ftune, fun _ => .fapply, fun _ => .fdecim, fun _ => .finterp, fun _ => .fresamp, .hbinit,
    fun _ => .hbdec2, fun _ => .hbint2, .chsel, fun _ => .chrun, fun _ => .frac, fun _ => .dminit, fun _ => .demod,
    fun _ => .restore, fun _ => .modinit, fun _ => .mod, .agcinit, .agcrun, fun _ => .nbinit, fun _ => .nbrun,
    fun _ => .aninit, fun _ => .anrun, fun _ => .piperx, fun _ => .bkfree ]

theorem opcodeRows_eq : opcodeRows = commands.map fun mk => rowOf (mk false 0) := by decide

/-- Flag and `ID` are read back from a command and do not matter for its row. -/
theorem fields_of_command : ∀ mk ∈ commands, ∀ (b : Bool) (n : Nat),
    rowOf (mk b n) = rowOf (mk false 0) ∧ (mk b n).id = n ∧ (mk b n).flag = ((mk b n).hasFlag && b) := by
  simp only [commands, List.forall_mem_cons, List.not_mem_nil, false_implies, implies_true, and_true]
  and_intros <;> exact fun _ _ => ⟨rfl, rfl, rfl⟩

theorem exists_command (i : Instr) : ∃ mk ∈ commands, mk i.flag i.id = i := by
  cases i <;> simp [commands, Instr.flag, Instr.id]

theorem rowOf_mem (i : Instr) : rowOf i ∈ opcodeRows := by
  obtain ⟨mk, hmk, hi⟩ := exists_command i
  rw [opcodeRows_eq, ← hi, (fields_of_command mk hmk _ _).1]
  exact List.mem_map_of_mem hmk

/-- The mnemonics of the rows are distinct. -/
theorem row_eq_of_mnemonic : ∀ r ∈ opcodeRows, ∀ q ∈ opcodeRows, r.mnemonic = q.mnemonic → r = q := by decide

/-- A word agrees with a command's row where it has the opcode and no flag but a defined one. -/
theorem rowOf_matches (i : Instr) (w : Word32) :
    (rowOf i).matches w = true ↔ w.op = i.opcode ∧ w.fl < if i.hasFlag then 2 else 1 := by
  have hw := w.toNat_eq_fields
  have hop := i.opcode_lt
  have hid := w.idField_lt
  have hfl : w.fl < 256 := (w.extractLsb' 16 8).isLt
  rw [OpcodeRow.matches, rowOf, beq_iff_eq, ← BitVec.shiftLeft_ushiftRight, ← BitVec.toNat_inj]
  cases i.hasFlag <;>
    simp only [BitVec.toNat_shiftLeft, BitVec.toNat_ushiftRight, BitVec.toNat_ofNat, Nat.shiftLeft_eq,
      Nat.shiftRight_eq_div_pow, Bool.false_eq_true, if_true, if_false] <;>
    omega

theorem rowOf_matches_of_decode {w : Word32} {i : Instr} (h : decode w = some i) : (rowOf i).matches w = true := by
  obtain ⟨hop, hfl, -⟩ := decode_eq_some.mp h
  refine (rowOf_matches i w).mpr ⟨hop, ?_⟩
  rw [hfl]
  cases hi : i.hasFlag
  · simp [Instr.flag_of_hasFlag_false hi]
  · exact Bool.toNat_lt i.flag

/-- A legal flags field is the number of its flag bit. -/
theorem toNat_decide_eq_one {n : Nat} (h : n < 2) : (decide (n = 1)).toNat = n :=
  match n, h with
  | 0, _ => rfl
  | 1, _ => rfl

/-- A word that a row matches is one of the row's commands. -/
theorem decode_of_matches {w : Word32} {r : OpcodeRow} (hr : r ∈ opcodeRows) (h : r.matches w = true) :
    ∃ i, decode w = some i ∧ rowOf i = r := by
  rw [opcodeRows_eq] at hr
  obtain ⟨mk, hmk, rfl⟩ := List.mem_map.mp hr
  obtain ⟨hrow, hid, hflag⟩ := fields_of_command mk hmk (decide (w.fl = 1)) w.idField
  rw [← hrow, rowOf_matches] at h
  obtain ⟨hop, hfl⟩ := h
  refine ⟨mk (decide (w.fl = 1)) w.idField, decode_eq_some.mpr ⟨hop, ?_, hid.symm⟩, hrow⟩
  rw [hflag]
  cases hf : (mk (decide (w.fl = 1)) w.idField).hasFlag <;> rw [hf] at hfl
  · exact Nat.lt_one_iff.mp hfl
  · exact (toNat_decide_eq_one hfl).symm

/-- Settles O2: a row matches exactly the words of its commands. -/
theorem decodeFollowsTheMap : Obligations.DecodeFollowsTheMap := by
  intro w
  refine ⟨fun r hr => ⟨fun h => ?_, fun ⟨i, hi, hm⟩ => ?_⟩, ⟨fun h r hr => ?_, fun h => ?_⟩, fun i => encode_of_decode⟩
  · obtain ⟨i, hi, rfl⟩ := decode_of_matches hr h
    exact ⟨i, hi, rfl⟩
  · rw [← row_eq_of_mnemonic _ (rowOf_mem i) r hr hm]
    exact rowOf_matches_of_decode hi
  · refine Bool.eq_false_iff.mpr fun hm => ?_
    obtain ⟨i, hi, -⟩ := decode_of_matches hr hm
    simp [h] at hi
  · refine Option.eq_none_iff_forall_ne_some.mpr fun i hi => ?_
    simpa [h _ (rowOf_mem i)] using rowOf_matches_of_decode hi

end Sys2Proof.Machine
end

section
/-! PROOFS. What a command refuses (spec/60_exceptions.md R441, R443, R444, R450): the checks a command begins with and what the first
failing one raises, the range of `ID` (spec/30_encoding.md R122), and the operands and registers of the bank commands. -/

namespace Sys2Proof.Machine

/-! ### The checks a command begins with -/

/-- A command makes the checks `cs` before everything else it does. -/
def State.Begins (s : State) (i : Instr) (cs : List Check) : Prop :=
  ∃ ds k, exec i s = s.checked (cs ++ ds) k

/-- The checks after the first one that fails do not matter. -/
theorem firstFail_append_of_some {cs : List Check} (ds : List Check) {p : Err × Word64} (h : firstFail cs = some p) :
    firstFail (cs ++ ds) = some p := by
  induction cs with
  | nil => simp [firstFail] at h
  | cons c cs ih =>
    rw [List.cons_append]
    unfold firstFail at h ⊢
    cases hc : c.ok <;> simp only [hc, Bool.false_eq_true, if_true, if_false] at h ⊢
    · exact h
    · exact ih h

/-- A command raises what the first failing check among those it begins with reports. -/
theorem State.Begins.raises {s : State} {i : Instr} {cs : List Check} (hb : s.Begins i cs) (e : Err) {w : Word64}
    (h : firstFail cs = some (e, w)) : s.Raises i e.code w := by
  obtain ⟨ds, k, hexec⟩ := hb
  exact ⟨s.raise e w, hexec.trans (State.checked_fail (firstFail_append_of_some ds h)), rfl⟩

/-! ### The range of `ID` -/

/-- A command whose `ID` names something checks its range first (R122, R450). -/
theorem begins_idCheck (i : Instr) (s : State) {n : Nat} (h : s.idCount (idKind i) = some n) :
    s.Begins i [idCheck i.id n] := by
  cases i <;> cases h <;>
    dsimp only [State.Begins, exec, execFinit, execFtune, execFapply, execFdecim, execFinterp, execFresamp, execHbinit,
      execHbdec2, execHbint2, execChsel, execChrun, execFrac, execDminit, execDemod, execRestore, execModinit, execMod,
      execAgcinit, execAgcrun, execNbinit, execNbrun, execAninit, execAnrun, execPiperx, execBkfree] <;>
    exact ⟨_, _, rfl⟩

/-- Settles O19: the range of `ID` is every command's first check, and NOP has none. -/
theorem idOutOfRange : Obligations.IdOutOfRange := by
  refine ⟨fun i => ?_, fun _ _ _ => rfl, fun i s n hn hid => ?_⟩
  · cases i <;> simp [idKind, Instr.opcode]
  · exact (begins_idCheck i s hn).raises .param (by simp [firstFail, idCheck, hid])

/-! ### The checks of the bank commands -/

section
variable (w : Bool) (id : Nat) (s : State)

theorem begins_chsel : s.Begins (.chsel w id)
    [idCheck id s.nbanks, ⟨(s.selected w).isSome, .rate, s.cr.rateIn.setWidth 64⟩] := by
  unfold State.Begins exec execChsel
  exact ⟨_, _, rfl⟩

theorem begins_dminit :
    let m := (s.bankRegs id).mode.toNat
    let kind := (s.cfg.modeRec m).kind
    s.Begins (.dminit id)
      [idCheck id s.nbanks, posCheck s.opReal, ⟨decide (m ≤ 12), .param, 0⟩,
       ⟨decide (kind ≠ .noSemantics), .unsupported, modeInfo m⟩,
       ⟨decide (kind ≠ .dv) || s.cfg.codec, .unsupported, modeInfo m⟩] := by
  unfold State.Begins exec execDminit
  exact ⟨_, _, rfl⟩

theorem begins_agcinit : s.Begins (.agcinit w id)
    [idCheck id s.nbanks, posCheck s.opReal, posCheck s.cr.agcRelGain,
     ⟨(Params.agcLen s.cfg s.opReal).any fun l => 1 ≤ l ∧ l ≤ (s.cfg.maxBlock : Int), .param, 0⟩] := by
  unfold State.Begins exec execAgcinit
  exact ⟨_, _, rfl⟩

theorem begins_aninit : s.Begins (.aninit id) [idCheck id s.nbanks, primaryCheck id, posCheck s.opReal] := by
  unfold State.Begins exec execAninit
  exact ⟨_, _, rfl⟩

theorem begins_modinit : s.Begins (.modinit id)
    [idCheck id s.nbanks, ⟨decide ((s.bankRegs id).mode.toNat ≤ 12), .param, 0⟩,
     ⟨s.cfg.txBundle, .unsupported, modeInfo (s.bankRegs id).mode.toNat⟩] := by
  unfold State.Begins exec execModinit
  exact ⟨_, _, rfl⟩

theorem begins_nbinit :
    let rate := s.cfg.rateHz s.cr.rateIn.toNat
    s.Begins (.nbinit id)
      [idCheck id s.nbanks, ⟨rate.isSome, .rate, s.cr.rateIn.setWidth 64⟩,
       ⟨(Params.nbLen s.cfg (rate.getD 0)).any fun l => 2 ≤ l ∧ l ≤ (s.cfg.maxBlock : Int), .param, 0⟩] := by
  unfold State.Begins exec execNbinit
  exact ⟨_, _, rfl⟩

theorem begins_frac : s.Begins (.frac id)
    [idCheck id s.nbanks, s.sizeCheck, finiteCheck s.opStep, s.boundsCheck s.a0 s.fracExtent, stepCheck s.opStep] := by
  unfold State.Begins exec execFrac
  exact ⟨_, _, rfl⟩

theorem begins_agcrun : s.Begins (.agcrun w id)
    ([idCheck id s.nbanks, s.sizeCheck, s.boundsCheck s.a0 s.opN, boundCheck (s.bank id).agc.valid id] ++ s.agcChecks) := by
  unfold State.Begins exec execAgcrun
  exact ⟨_, _, rfl⟩

theorem begins_anrun : s.Begins (.anrun id)
    [idCheck id s.nbanks, s.sizeCheck, s.boundsCheck s.a0 (min (s.opN + s.cfg.anB - 1) s.cfg.maxBlock),
     primaryCheck id] := by
  unfold State.Begins exec execAnrun
  exact ⟨_, _, rfl⟩

theorem begins_piperx :
    let nrx := s.cr.nrx.toNat
    s.Begins (.piperx id)
      [idCheck id s.nbanks, ⟨decide (1 ≤ nrx ∧ nrx ≤ s.nbanks ∧ id < nrx), .param, 0⟩, s.sizeCheck,
       ⟨decide (1 ≤ s.opN), .noData, 0⟩] := by
  unfold State.Begins exec execPiperx State.pipeChecks
  exact ⟨_, _, rfl⟩

end

/-! ### What the bank commands refuse -/

theorem modeInfo_toNat (m : BitVec 8) : modeInfo m.toNat = m.setWidth 64 := BitVec.ofNat_toNat 64 m

theorem State.selected_eq_none {s : State} {w : Bool}
    (h : s.cfg.rateHz s.cr.rateIn.toNat = none ∨ s.cfg.cascade s.cr.rateIn.toNat w = none) : s.selected w = none := by
  unfold State.selected
  split
  case h_1 hr hc => simp [hr, hc] at h
  case h_2 => rfl

/-- A length out of range fails the check of a delay line. -/
theorem any_inRange_eq_false {v : Option Int} {low high : Int} (h : ∀ n ∈ v, n < low ∨ high < n) :
    (v.any fun l => decide (low ≤ l) && decide (l ≤ high)) = false := by
  cases v with
  | none => rfl
  | some n =>
    have := h n rfl
    simp only [Option.any_some, Bool.and_eq_false_iff, decide_eq_false_iff_not]
    omega

/-- The registers of AGCRUN all report `E_PARAM`. -/
theorem firstFail_agcChecks {s : State} (h : ¬s.AgcRegistersOk) : firstFail s.agcChecks = some (.param, 0) := by
  simp only [State.agcChecks, firstFail, posCheck]
  by_cases hmax : s.cr.agcMaxOut.isPos = true
  · by_cases hgain : s.cr.agcRelGain.isPos = true
    · have htime : ¬s.cr.agcRelTime.isPos = true := fun htime => h ⟨hmax, hgain, htime⟩
      rw [if_pos hmax, if_pos hgain, if_neg htime]
    · rw [if_pos hmax, if_neg hgain]
  · rw [if_neg hmax]

/-- Settles O24: each refusal is the first failing check of the command. -/
theorem bankConfigurationErrors : Obligations.BankConfigurationErrors := by
  intro s id w hid
  have hidOk : (idCheck id s.nbanks).ok = true := (idCheck_ok _ _).mpr hid
  have hfrac : s.opN ≤ s.cfg.maxBlock → s.opStep.isFinite = false → s.Raises (.frac id) 5 0 := fun hn hs =>
    (begins_frac id s).raises .param (by simp [firstFail, hidOk, s.sizeCheck_ok.mpr hn, finiteCheck, hs])
  dsimp only
  refine ⟨?chsel, ?rate, ?rated, ?modinitMode, ?modinitBundle, ?nbinitRate, ?nbinitLength, hfrac, ?fracStep, ?agcrun,
    ?aninit, ?anrun, ?piperxBank, ?piperxNoData⟩
  case chsel =>
    intro h
    exact (begins_chsel w id s).raises .rate (by simp [firstFail, hidOk, State.selected_eq_none h])
  case rate =>
    intro hr
    refine ⟨(begins_dminit id s).raises .param ?_, (begins_agcinit w id s).raises .param ?_,
      (begins_aninit id s).raises .param ?_⟩ <;>
    simp [firstFail, hidOk, posCheck, primaryCheck, hr]
  case rated =>
    intro hr
    refine ⟨fun hm => (begins_dminit id s).raises .param ?_, fun hm hk => ?_, fun h =>
      (begins_agcinit w id s).raises .param ?_⟩
    · simp [firstFail, hidOk, posCheck, hr, Nat.not_le.mpr hm]
    · rw [← modeInfo_toNat]
      refine (begins_dminit id s).raises .unsupported ?_
      rcases hk with hk | ⟨hk, hc⟩
      · simp [firstFail, hidOk, posCheck, hr, hm, hk]
      · simp [firstFail, hidOk, posCheck, hr, hm, hk, hc]
    · rcases h with h | h
      · simp [firstFail, hidOk, posCheck, hr, h]
      · have hlen := any_inRange_eq_false h
        simp [firstFail, hidOk, posCheck, hr, Params.agcLen, hlen]
  case modinitMode =>
    intro hm
    exact (begins_modinit id s).raises .param (by simp [firstFail, hidOk, Nat.not_le.mpr hm])
  case modinitBundle =>
    intro hm ht
    rw [← modeInfo_toNat]
    exact (begins_modinit id s).raises .unsupported (by simp [firstFail, hidOk, hm, ht])
  case nbinitRate =>
    intro h
    exact (begins_nbinit id s).raises .rate (by simp [firstFail, hidOk, h])
  case nbinitLength =>
    intro hz h hl
    have hlen := any_inRange_eq_false hl
    exact (begins_nbinit id s).raises .param (by simp [firstFail, hidOk, h, Params.nbLen, hlen])
  case fracStep =>
    intro ⟨hn, hb⟩ hs
    cases hf : s.opStep.isFinite with
    | false => exact hfrac hn hf
    | true =>
      have hbounds : (s.boundsCheck s.a0 s.fracExtent).ok = true := (s.boundsCheck_ok _ _).mpr hb
      exact (begins_frac id s).raises .param
        (by simp [firstFail, hidOk, s.sizeCheck_ok.mpr hn, finiteCheck, hf, hbounds, stepCheck, hs])
  case agcrun =>
    intro ⟨hn, hb⟩ hv hg
    have hbounds : (s.boundsCheck s.a0 s.opN).ok = true := (s.boundsCheck_ok _ _).mpr hb
    refine (begins_agcrun w id s).raises .param ?_
    simp only [List.cons_append, List.nil_append, firstFail, hidOk, s.sizeCheck_ok.mpr hn, hbounds, boundCheck, hv, if_true]
    exact firstFail_agcChecks hg
  case aninit =>
    intro h0
    exact (begins_aninit id s).raises .param (by simp [firstFail, hidOk, primaryCheck, Nat.ne_of_gt h0])
  case anrun =>
    intro h0 ⟨hn, hb⟩
    have hbounds : (s.boundsCheck s.a0 (min (s.opN + s.cfg.anB - 1) s.cfg.maxBlock)).ok = true :=
      (s.boundsCheck_ok _ _).mpr (Nat.le_trans (Nat.add_le_add_left (Nat.min_le_right _ _) _) hb)
    exact (begins_anrun id s).raises .param
      (by simp [firstFail, hidOk, s.sizeCheck_ok.mpr hn, hbounds, primaryCheck, Nat.ne_of_gt h0])
  case piperxBank =>
    intro h
    have hnrx : ¬(1 ≤ s.cr.nrx.toNat ∧ s.cr.nrx.toNat ≤ s.nbanks ∧ id < s.cr.nrx.toNat) := by omega
    exact (begins_piperx id s).raises .param (by simp only [firstFail, hidOk, hnrx, decide_false, if_true]; rfl)
  case piperxNoData =>
    intro hx hx' h
    have hnrx : 1 ≤ s.cr.nrx.toNat ∧ s.cr.nrx.toNat ≤ s.nbanks ∧ id < s.cr.nrx.toNat := by omega
    have hn : s.opN = 0 := by simp [State.opN, h]
    have hsize : s.sizeCheck.ok = true := s.sizeCheck_ok.mpr (hn ▸ Nat.zero_le _)
    exact (begins_piperx id s).raises .noData (by simp [firstFail, hidOk, hnrx, hsize, hn])

end Sys2Proof.Machine
end

section
/-! PROOFS. CHSEL (spec/42_chain_selector.md R221 to R224): the rates of R136, the row it selects, and the chain it builds. -/

namespace Sys2Proof

/-! ### Rates and rows -/

theorem Params.rateHz_of_ge (p : Params) {n : Nat} (h : 6 ≤ n) : p.rateHz n = p.rates.lookup n := by
  obtain ⟨m, rfl⟩ := Nat.exists_eq_add_of_le' h
  rfl

theorem Params.cascade_eq_none {p : Params} {n : Nat} {w : Bool} (h : ∀ r ∈ p.chains, ¬(r.rateId = n ∧ r.wide = w)) :
    p.cascade n w = none := by
  rw [Params.cascade, Option.map_eq_none_iff, List.find?_eq_none]
  simpa using h

/-- The first row with the id and the flag is the one selected. -/
theorem Params.cascade_eq_some {p : Params} {n : Nat} {w : Bool} {before after : List ChainRow} {row : List RowStage}
    (hp : p.chains = before ++ ⟨n, w, row⟩ :: after) (h : ∀ r ∈ before, ¬(r.rateId = n ∧ r.wide = w)) :
    p.cascade n w = some (row.map (p.rowStage w)) := by
  have hbefore : before.find? (fun r => decide (r.rateId = n ∧ r.wide = w)) = none := by
    rw [List.find?_eq_none]
    simpa using h
  rw [Params.cascade, hp, List.find?_append, hbefore]
  simp

end Sys2Proof

namespace Sys2Proof.Machine

/-! ### What CHSEL installs -/

/-- The chain CHSEL builds from a cascade (R224). -/
def State.builtChain (s : State) (w : Bool) (ds : List StageDesc) (rate : Real64) : ChainState :=
  { valid := true, rateId := s.cr.rateIn.toNat, wide := w, stages := ds.map (s.freshStage .cplx), achRate := rate }

/-- The state CHSEL leaves when it builds a cascade with an achieved rate. -/
def State.chselDone (s : State) (w : Bool) (id : Nat) (ds : List StageDesc) (rate : Real64) : State :=
  ((s.consulted.setBank id { s.bank id with chain := s.builtChain w ds rate, frac := {} }).setAchRate id rate).finish
    0 rate.bits 0

/-- CHSEL of a cascade whose tables exist, with memory to allocate. -/
theorem exec_chsel_of_ready {s : State} {w : Bool} {id hz : Nat} {ds : List StageDesc} (hid : id < s.nbanks)
    (hsel : s.selected w = some (hz, ds)) (hslots : s.SlotsFilled ds) (ha : s.allocOk = true) :
    exec (.chsel w id) s = .next (s.chselDone w id ds (achievedRate hz ds)) := by
  dsimp only [exec, execChsel]
  rw [hsel, State.checked_pass, State.allocating_pass fun _ => ha]
  · rfl
  · intro c hc
    simp only [List.cons_append, List.nil_append, List.mem_cons] at hc
    rcases hc with rfl | rfl | hc
    · exact (idCheck_ok _ _).mpr hid
    · rfl
    · exact State.descChecks_ok hslots c hc

/-- A command that cuts nothing completes with its results. -/
theorem State.completed_finish {s u : State} (r0 r1 : Word64) (h : u.cr = s.cr) :
    s.Completed (u.finish r0 r1 0) r0 r1 false := by
  simp [State.Completed, Status.ofTrunc, h]

/-- What the bank index of CHSEL names afterwards. -/
theorem State.chan_chselDone {s : State} {id : Nat} (w : Bool) (ds : List StageDesc) (rate : Real64) (h : id < s.nbanks) :
    (s.chselDone w id ds rate).chan id =
      { s.chan id with bank := { s.bank id with chain := s.builtChain w ds rate, frac := {} }, achRate := rate } := by
  refine (State.chan_setAchRate_self _ id rate (by simpa using h)).trans ?_
  rw [State.chan_setBank_self s.consulted id _ h]
  rfl

/-- Settles O38: the lookups find the first row, and CHSEL maps the fresh stages over it. -/
theorem chselBuilds : Obligations.ChselBuilds := by
  refine ⟨fun p => ⟨⟨rfl, rfl, rfl, rfl, rfl, rfl, fun n => p.rateHz_of_ge⟩, fun n w => ⟨Params.cascade_eq_none, ?_⟩⟩,
    fun w => ?_, ?_⟩
  · intro before after row hp h
    rw [Params.cascade_eq_some hp h]
    refine congrArg some (List.map_congr_left fun e _ => ?_)
    cases e <;> rfl
  · cases w <;> exact ⟨rfl, rfl⟩
  · intro s w id hz ds hid hhz hds hslots ha rate
    have hsel : s.selected w = some (hz, ds) := by rw [State.selected, hhz, hds]
    have hexec : exec (.chsel w id) s = .next (s.chselDone w id ds rate) := exec_chsel_of_ready hid hsel hslots ha
    clear_value rate
    have hchan := s.chan_chselDone w ds rate hid
    have hbank : (s.chselDone w id ds rate).bank id = { s.bank id with chain := s.builtChain w ds rate, frac := {} } :=
      congrArg Channel.bank hchan
    refine ⟨_, hexec, State.completed_finish _ _ rfl, congrArg Channel.achRate hchan, ?_⟩
    rw [hbank]
    refine ⟨rfl, rfl, rfl, rfl, List.length_map _, fun k _ => ?_, rfl⟩
    refine List.getElem?_map.trans (congrArg (Option.map · ds[k]?) (funext fun d => ?_))
    cases d <;> rfl

end Sys2Proof.Machine
end

section
/-! PROOFS. Half-band filters (spec/41_halfband.md) and the commands that bind a filter or a half-band (R162, R204): the inputs a
window has taken, what the loops of HBDEC2 (R206) and HBINT2 (R208) make of them, and what each command leaves. -/

namespace Sys2Proof.Machine

/-! ### Binding a filter or a half-band -/

theorem exec_finit (v : Bool) (id : Nat) (s : State) : exec (.finit v id) s = execFinit v id s := rfl
theorem exec_hbinit (v : Bool) (id : Nat) (s : State) : exec (.hbinit v id) s = execHbinit v id s := rfl
theorem exec_hbdec2 (id : Nat) (s : State) : exec (.hbdec2 id) s = execHbdec2 id s := rfl
theorem exec_hbint2 (id : Nat) (s : State) : exec (.hbint2 id) s = execHbint2 id s := rfl

/-- FINIT with a table of the tap count and memory to allocate (R162). -/
theorem exec_finit_of_table {s : State} {id : Nat} {tb : Table} (v : Bool) (hid : id < s.nfilt) (ht : s.opA < s.ntab)
    (hn : 1 ≤ s.opN) (hmax : s.opN ≤ s.cfg.maxTaps) (htb : s.table s.opA = some tb) (hlen : tb.val.length = s.opN)
    (ha : s.allocOk = true) :
    exec (.finit v id) s =
      .next (s.consulted.setFilter id (.fresh (if v then .real else .cplx) s.opA s.opN)).finishInit := by
  rw [exec_finit, execFinit, State.checked_pass, State.allocating_pass fun _ => ha]
  · rfl
  · simp [idCheck, State.slotCheck, hid, ht, hn, hmax, htb, hlen]

/-- HBINIT of a half-band that exists has no other check (R204). -/
theorem exec_hbinit_of_lt {s : State} {id : Nat} (v : Bool) (hid : id < s.nhb) :
    exec (.hbinit v id) s = .next (s.setHalf id (.fresh (if v then .real else .cplx))).finishInit := by
  rw [exec_hbinit, execHbinit, State.checked_pass]
  simpa using (idCheck_ok id s.nhb).mpr hid

/-- The words of HBINIT (R204). -/
theorem decode_hbinit (v : Bool) {id : Nat} (hid : id < 65536) :
    decode (BitVec.ofNat 32 (0x20000000 + (if v then 0x10000 else 0) + id)) = some (.hbinit v id) := by
  refine decode_eq_some.mpr (Laws.WordFields.fields_of_sum 0x20 v.toNat id _ ?_ hid ?_)
  · cases v <;> decide
  · rw [BitVec.toNat_ofNat]
    cases v
    · simp only [Bool.false_eq_true, if_false, Bool.toNat_false, Nat.reducePow]
      omega
    · simp only [if_true, Bool.toNat_true, Nat.reducePow]
      omega

/-- Settles O27: both commands install `fresh`; the words have its fields, and the range of `ID` is the first check. -/
theorem instancesAreBound : Obligations.InstancesAreBound := by
  intro s v id
  refine ⟨?_, ?_, ?_, ?_⟩
  · intro tb hid ht hn hmax htb hlen ha
    exact ⟨_, exec_finit_of_table v hid ht hn hmax htb hlen ha, State.completed_finishInit rfl,
      s.consulted.filter_setFilter_self id _ hid⟩
  · exact decode_hbinit v
  · intro hid
    exact (begins_idCheck (.hbinit v id) s rfl).raises .param (by simp [firstFail, idCheck, Instr.id, Nat.not_lt.mpr hid])
  · intro hid
    exact ⟨_, exec_hbinit_of_lt v hid, State.completed_finishInit rfl, s.half_setHalf_self id _ hid⟩

/-! ### The inputs a window has taken (R205) -/

@[simp] theorem HBInst.push_toggle (i : HBInst) (z : Cplx) : (i.push z).toggle = i.toggle := rfl

/-- Ages do not depend on where in the block one counts from. -/
theorem HBInst.received_succ_succ (i : HBInst) (x : List Cplx) (m k : Nat) :
    i.received x (m + 1) (k + 1) = i.received x m k := by
  simp only [HBInst.received, Nat.add_le_add_iff_right, Nat.add_sub_add_right, Nat.sub_sub]

/-- An input pushed into the window is an input of the block before the rest. -/
theorem HBInst.received_push (i : HBInst) (z : Cplx) (x : List Cplx) (m : Nat) {k : Nat} (hk : k ≤ 45) :
    (i.push z).received x m k = i.received (z :: x) (m + 1) k := by
  simp only [HBInst.received, HBInst.push]
  rcases Nat.lt_trichotomy k (m + 1) with h | rfl | h
  · rw [if_pos (by omega), if_pos (by omega), show m + 1 - k = (m - k) + 1 by omega, List.getD_cons_succ]
  · rw [if_neg (Nat.not_succ_le_self m), if_pos (Nat.le_refl _), Nat.sub_sub, Nat.sub_self,
      List.getD_cons_zero, List.getD_cons_zero]
  · rw [if_neg (by omega), if_neg (by omega), show k - m - 1 = (k - (m + 1) - 1) + 1 by omega, List.getD_cons_succ,
      List.getD_eq_getElem?_getD, List.getElem?_take_of_lt (by omega), ← List.getD_eq_getElem?_getD]

/-- The window of `w` is that of `i` after the first `n` inputs of a block. -/
def HBInst.HasTaken (w i : HBInst) (x : List Cplx) (n : Nat) : Prop := ∀ k < 45, w.at k = i.received x n (k + 1)

theorem HBInst.hasTaken_zero (i : HBInst) (x : List Cplx) : i.HasTaken i x 0 := fun _ _ => by
  simp [HBInst.at, HBInst.received]

theorem HBInst.HasTaken.cons {w i : HBInst} {z : Cplx} {x : List Cplx} {n : Nat} (h : w.HasTaken (i.push z) x n) :
    w.HasTaken i (z :: x) (n + 1) := fun k hk =>
  (h k hk).trans (i.received_push z x n hk)

theorem HBInst.hasTaken_push (i : HBInst) (z : Cplx) (x : List Cplx) : (i.push z).HasTaken i (z :: x) 1 :=
  ((i.push z).hasTaken_zero x).cons

/-! ### The outputs made of a window -/

section
variable {w i : HBInst} {x : List Cplx} {m : Nat} (hw : w.HasTaken i x (m + 1)) (h : List Real64)
include hw

theorem HBInst.HasTaken.at_eq {k : Nat} (hk : k < 45) : w.at k = i.received x m k :=
  (hw k hk).trans (i.received_succ_succ x m k)

theorem HBInst.HasTaken.pairs_eq {count top : Nat} (c : Nat → Nat) (hc : count ≤ 45) (ht : top < 45) :
    w.pairs h count top c = i.pairSum h x m count top c := by
  refine List.foldl_rel (r := (· = ·)) rfl fun k hk acc _ hacc => ?_
  subst hacc
  have hk' : k < count := List.mem_range.mp hk
  rw [hw.at_eq (by omega : k < 45), hw.at_eq (by omega : top - k < 45)]
  rfl

theorem HBInst.HasTaken.decOut_eq : w.decOut h =
    (i.pairSum h x m 22 44 fun k => k).add ((i.received x m 22).scale (h.getD 22 .zero)) := by
  rw [HBInst.decOut, hw.pairs_eq h id (by omega) (by omega), hw.at_eq (by omega)]
  rfl

theorem HBInst.HasTaken.evenOut_eq : w.evenOut h =
    ((i.pairSum h x m 11 22 fun k => 2 * k).add ((i.received x m 11).scale (h.getD 22 .zero))).scale .two := by
  rw [HBInst.evenOut, hw.pairs_eq h _ (by omega) (by omega), hw.at_eq (by omega)]
  rfl

theorem HBInst.HasTaken.oddOut_eq : w.oddOut h = (i.pairSum h x m 11 21 fun k => 2 * k + 1).scale .two := by
  rw [HBInst.oddOut, hw.pairs_eq h _ (by omega) (by omega)]

end

/-! ### Finite values -/

theorem anyNonFinite_eq_false (x : List Cplx) : anyNonFinite x = false ↔ ∀ z ∈ x, z.isFinite = true := by
  simp [anyNonFinite]

theorem HBInst.AllFinite.push {i : HBInst} {z : Cplx} {x : List Cplx} (h : i.AllFinite (z :: x)) :
    (i.push z).AllFinite x := by
  obtain ⟨hx, hi⟩ := h
  obtain ⟨hz, hx⟩ := List.forall_mem_cons.mp hx
  exact ⟨hx, List.forall_mem_cons.mpr ⟨hz, fun y hy => hi y (List.mem_of_mem_take hy)⟩⟩

theorem HBInst.AllFinite.badWithin {i : HBInst} {x : List Cplx} (h : i.AllFinite x) (n : Nat) : i.badWithin n = false :=
  (anyNonFinite_eq_false _).mpr fun y hy => h.2 y (List.mem_of_mem_take hy)

/-! ### The loop of HBDEC2 (R206) -/

section
variable (h : List Real64) (i : HBInst) (x : List Cplx)

theorem hbDec2_cons (z : Cplx) : hbDec2 h i (z :: x) =
    (hbDec2 h ((i.push z).withToggle !i.toggle) x).after (if i.toggle then [(i.push z).decOut h] else [])
      (i.toggle && (i.push z).badWithin 45) := by
  cases ht : i.toggle <;> simp [hbDec2, ht]

theorem hbDec2_length : (hbDec2 h i x).out.length = (x.length + (StageInst.hb i).carried) / 2 := by
  induction x generalizing i with
  | nil => cases ht : i.toggle <;> simp [hbDec2, StageInst.carried, ht]
  | cons z x ih =>
    cases ht : i.toggle <;>
      simp [hbDec2_cons, HbLoop.after, StageInst.carried, HBInst.withToggle, ih, ht]
    all_goals omega

theorem hbDec2_toggle :
    (hbDec2 h i x).i.toggle = decide ((x.length + (StageInst.hb i).carried) % 2 = 1) := by
  induction x generalizing i with
  | nil => cases ht : i.toggle <;> simp [hbDec2, StageInst.carried, ht]
  | cons z x ih =>
    cases ht : i.toggle <;>
      simp [hbDec2_cons, HbLoop.after, StageInst.carried, HBInst.withToggle, ih, ht]
    all_goals omega

theorem hbDec2_hasTaken : (hbDec2 h i x).i.HasTaken i x x.length := by
  induction x generalizing i with
  | nil => exact i.hasTaken_zero []
  | cons z x ih =>
    rw [hbDec2_cons]
    exact HBInst.HasTaken.cons (ih ((i.push z).withToggle !i.toggle))

/-- Output `j` is made of the window after `2 · j + 2` inputs, one less when the toggle counted one already. -/
theorem hbDec2_out {j : Nat} {y : Cplx} (hy : (hbDec2 h i x).out[j]? = some y) :
    ∃ w : HBInst, y = w.decOut h ∧ w.HasTaken i x (2 * j + 1 - (StageInst.hb i).carried + 1) := by
  induction x generalizing i j with
  | nil => simp [hbDec2] at hy
  | cons z x ih =>
    rw [hbDec2_cons] at hy
    cases ht : i.toggle with
    | false =>
      simp only [ht, HbLoop.after, Bool.false_eq_true, if_false, List.nil_append] at hy
      obtain ⟨w, hw, htaken⟩ := ih _ hy
      exact ⟨w, hw, by simpa [StageInst.carried, ht, HBInst.withToggle] using HBInst.HasTaken.cons htaken⟩
    | true =>
      simp only [ht, HbLoop.after, if_true, List.cons_append, List.nil_append] at hy
      cases j with
      | zero =>
        refine ⟨i.push z, (Option.some.inj hy).symm, ?_⟩
        simpa [StageInst.carried, ht] using i.hasTaken_push z x
      | succ j =>
        obtain ⟨w, hw, htaken⟩ := ih _ hy
        exact ⟨w, hw, by simpa [StageInst.carried, ht, HBInst.withToggle, Nat.mul_succ] using HBInst.HasTaken.cons htaken⟩

theorem hbDec2_bad (hf : i.AllFinite x) : (hbDec2 h i x).bad = false := by
  induction x generalizing i with
  | nil => rfl
  | cons z x ih =>
    have hp := hf.push
    simp [hbDec2_cons, HbLoop.after, hp.badWithin, ih ((i.push z).withToggle !i.toggle) hp]

end

/-! ### The loop of HBINT2 (R208) -/

section
variable (h : List Real64) (room : Nat) (i : HBInst) (x : List Cplx)

theorem hbInt2_cons_of_lt (z : Cplx) (hr : room < 2) : hbInt2 h room i (z :: x) = ⟨i, [], false, true, 0⟩ := by
  rw [hbInt2, if_pos hr]

theorem hbInt2_cons (z : Cplx) : hbInt2 h (room + 2) i (z :: x) =
    (hbInt2 h room (i.push z) x).after [(i.push z).evenOut h, (i.push z).oddOut h] ((i.push z).badWithin 23) := by
  rw [hbInt2, if_neg (by omega), Nat.add_sub_cancel]

theorem hbInt2_eaten : (hbInt2 h room i x).eaten = min x.length (room / 2) := by
  induction x generalizing room i with
  | nil => simp [hbInt2]
  | cons z x ih =>
    match room with
    | 0 | 1 => rw [hbInt2_cons_of_lt _ _ _ _ _ (by omega)]; simp
    | room + 2 =>
      simp only [hbInt2_cons, HbLoop.after, ih, List.length_cons]
      omega

theorem hbInt2_length : (hbInt2 h room i x).out.length = 2 * (hbInt2 h room i x).eaten := by
  induction x generalizing room i with
  | nil => rfl
  | cons z x ih =>
    match room with
    | 0 | 1 => rfl
    | room + 2 =>
      simp only [hbInt2_cons, HbLoop.after, ih, List.length_append, List.length_cons, List.length_nil]
      omega

theorem hbInt2_trunc : (hbInt2 h room i x).trunc = decide ((hbInt2 h room i x).eaten < x.length) := by
  induction x generalizing room i with
  | nil => simp [hbInt2]
  | cons z x ih =>
    match room with
    | 0 | 1 => rw [hbInt2_cons_of_lt _ _ _ _ _ (by omega)]; simp
    | room + 2 => simp [hbInt2_cons, HbLoop.after, ih]

theorem hbInt2_hasTaken : (hbInt2 h room i x).i.HasTaken i x (hbInt2 h room i x).eaten := by
  induction x generalizing room i with
  | nil => exact i.hasTaken_zero []
  | cons z x ih =>
    match room with
    | 0 | 1 => exact i.hasTaken_zero (z :: x)
    | room + 2 =>
      rw [hbInt2_cons]
      exact HBInst.HasTaken.cons (ih room (i.push z))

/-- The two outputs of input `m` are made of the window right after it. -/
theorem hbInt2_out {m : Nat} (hm : m < (hbInt2 h room i x).eaten) :
    ∃ w : HBInst, w.HasTaken i x (m + 1) ∧ (hbInt2 h room i x).out[2 * m]? = some (w.evenOut h) ∧
      (hbInt2 h room i x).out[2 * m + 1]? = some (w.oddOut h) := by
  induction x generalizing room i m with
  | nil => exact absurd hm (Nat.not_lt_zero m)
  | cons z x ih =>
    match room with
    | 0 | 1 => exact absurd hm (Nat.not_lt_zero m)
    | room + 2 =>
      rw [hbInt2_cons] at hm ⊢
      cases m with
      | zero => exact ⟨i.push z, i.hasTaken_push z x, rfl, rfl⟩
      | succ m =>
        obtain ⟨w, htaken, heven, hodd⟩ := ih room (i.push z) (Nat.lt_of_succ_lt_succ hm)
        exact ⟨w, htaken.cons, heven, hodd⟩

theorem hbInt2_bad (hf : i.AllFinite x) : (hbInt2 h room i x).bad = false := by
  induction x generalizing room i with
  | nil => rfl
  | cons z x ih =>
    match room with
    | 0 | 1 => rfl
    | room + 2 =>
      have hp := hf.push
      simp [hbInt2_cons, HbLoop.after, hp.badWithin, ih room (i.push z) hp]

end

/-! ### What a half-band command leaves -/

theorem outputAs_getElem? (v : Variant) (y : List Cplx) (j : Nat) : (outputAs v y)[j]? = y[j]?.map (cellOf v) := by
  cases v
  · exact Option.map_id'.symm
  · exact List.getElem?_map

/-- The samples a half-band command writes (R85, R11). -/
def State.halfOut (s : State) (r : Run HBInst) : List Cplx := emitted s.draws r.st.variant r.bad r.out

/-- The state a half-band command leaves. -/
def State.halfDone (s : State) (id : Nat) (r : Run HBInst) : State :=
  (s.setHalf id (r.commit r.bad)).finishBuf s.opA (s.halfOut r) (bit r.trunc)

theorem State.finishHalf_eq (s : State) (id : Nat) (r : Run HBInst) : s.finishHalf id r = .next (s.halfDone id r) := rfl

/-- The checks of HBDEC2 and HBINT2 hold of a bound half-band and a buffer that fits. -/
theorem State.halfChecks_ok {s : State} {id e : Nat} (hid : id < s.nhb) (hb : s.BufferOk e)
    (hbound : (s.half id).bound = true) : ∀ c ∈ s.halfChecks id e, c.ok = true := by
  simp only [State.halfChecks, List.forall_mem_cons, idCheck_ok, State.sizeCheck_ok, State.boundsCheck_ok, boundCheck_ok]
  exact ⟨hid, hb.1, hb.2, hbound, by simp⟩

section
variable {s : State} {id : Nat} (r : Run HBInst)

theorem State.completed_halfDone : s.Completed (s.halfDone id r) (BitVec.ofNat 64 r.out.length) 0 r.trunc := by
  cases ht : r.trunc <;>
    simp [State.Completed, State.halfDone, State.halfOut, Status.ofTrunc, bit, ht]

theorem State.half_halfDone (hid : id < s.nhb) : (s.halfDone id r).half id = r.commit r.bad :=
  s.half_setHalf_self id _ hid

/-- Where nothing the run read was NaN or infinite, its outputs stand from the base on. -/
theorem State.read_halfDone {y : Cplx} {j : Nat} (hwf : s.sm.wf = true) (hbad : r.bad = false) (hy : r.out[j]? = some y) :
    (s.halfDone id r).sm.read (s.opA + j) = cellOf r.st.variant y := by
  have hj : j < r.out.length := (List.getElem?_eq_some_iff.mp hy).1
  simp only [State.halfDone, State.halfOut, State.finishBuf_sm, State.setHalf_sm, hbad, emitted_finite]
  rw [Mem.read_writeBlock _ _ _ _ hwf, outputAs_length, if_pos (by omega), Nat.add_sub_cancel_left,
    List.getD_eq_getElem?_getD, outputAs_getElem?, hy]
  rfl

end

/-- What a half-band run commits has the toggle the loop left, whatever it read. -/
theorem hbRun_commit_toggle (ser : Nat) (p : Place) (x : List Cplx) (r : HbLoop) (bad : Bool) :
    ((hbRun ser p x r).commit bad).toggle = r.i.toggle := by
  cases bad
  · rfl
  · simp only [Run.commit_true, hbRun, HBInst.freed]
    split <;> rfl

theorem hbRun_bad {ser : Nat} {p : Place} {i : HBInst} {x : List Cplx} {r : HbLoop} (hf : i.AllFinite x)
    (hr : r.bad = false) : (hbRun ser p x r).bad = false := by
  simp [hbRun, hr, (anyNonFinite_eq_false x).mpr hf.1]

/-! ### HBDEC2 -/

/-- The run of HBDEC2 on its half-band and its block. -/
def State.hbdec2Run (s : State) (id : Nat) : Run HBInst :=
  let x := s.input (s.half id).variant
  hbRun s.draws placeHalf x (hbDec2 s.cfg.hb45 (s.half id) x)

theorem exec_hbdec2_of_ready {s : State} {id : Nat} (hid : id < s.nhb) (hb : s.BufferOk s.opN)
    (hbound : (s.half id).bound = true) : exec (.hbdec2 id) s = .next (s.halfDone id (s.hbdec2Run id)) := by
  rw [exec_hbdec2, execHbdec2, State.checked_pass (State.halfChecks_ok (e := extentSame s.opN) hid hb hbound)]
  rfl

/-- Settles O35: the loop's outputs and its last window, as windows that have taken so many inputs of the block. -/
theorem hbdec2Decimates : Obligations.Hbdec2Decimates := by
  intro s id hid hwf _ hb hbound hok i h x carried count
  have hlen : x.length = s.opN := s.input_length i.variant
  have hcount : (s.hbdec2Run id).out.length = count :=
    (hbDec2_length h i x).trans (congrArg (fun n => (n + carried) / 2) hlen)
  have hhalf := State.half_halfDone (s.hbdec2Run id) hid
  obtain ⟨-, -, htr, -, -, hvar⟩ := hbDec2_spec h i x hok.1
  refine ⟨_, exec_hbdec2_of_ready hid hb hbound, ?_, ?_, fun hf => ?_⟩
  · have hdone := State.completed_halfDone (s := s) (id := id) (s.hbdec2Run id)
    rwa [hcount, show (s.hbdec2Run id).trunc = false from htr] at hdone
  · rw [hhalf, ← hlen]
    exact (hbRun_commit_toggle _ _ _ _ _).trans (hbDec2_toggle h i x)
  · have hbad : (s.hbdec2Run id).bad = false := hbRun_bad hf (hbDec2_bad h i x hf)
    constructor
    · intro j hj
      have hy := List.getElem?_eq_getElem (hcount.symm ▸ hj)
      obtain ⟨w, hw, htaken⟩ := hbDec2_out h i x hy
      rw [State.read_halfDone _ hwf hbad hy, hw, htaken.decOut_eq h]
      exact congrArg (cellOf · _) hvar
    · rw [hhalf, hbad, ← hlen]
      exact hbDec2_hasTaken h i x

/-! ### HBINT2 -/

/-- The run of HBINT2 on its half-band and its block. -/
def State.hbint2Run (s : State) (id : Nat) : Run HBInst :=
  let x := s.input (s.half id).variant
  hbRun s.draws placeHalf x (hbInt2 s.cfg.hb45 s.cfg.maxBlock (s.half id) x)

theorem exec_hbint2_of_ready {s : State} {id : Nat} (hid : id < s.nhb) (hb : s.BufferOk (s.extentUp s.opN (2 * s.opN)))
    (hbound : (s.half id).bound = true) : exec (.hbint2 id) s = .next (s.halfDone id (s.hbint2Run id)) := by
  rw [exec_hbint2, execHbint2, State.checked_pass (State.halfChecks_ok hid hb hbound)]
  rfl

/-- Settles O36: as HBDEC2, with two outputs of each window and a loop that stops at `MAXBLOCK`. -/
theorem hbint2Interpolates : Obligations.Hbint2Interpolates := by
  intro s id hid hwf _ hb hbound hok i h x eaten
  have hlen : x.length = s.opN := s.input_length i.variant
  have heaten : (hbInt2 h s.cfg.maxBlock i x).eaten = eaten :=
    (hbInt2_eaten h s.cfg.maxBlock i x).trans (congrArg (min · (s.cfg.maxBlock / 2)) hlen)
  have hhalf := State.half_halfDone (s.hbint2Run id) hid
  obtain ⟨-, -, -, -, hvar, htoggle⟩ := hbInt2_spec h s.cfg.maxBlock i x hok.1
  refine ⟨_, exec_hbint2_of_ready hid hb hbound, ?_, ?_, fun hf => ?_⟩
  · have hcount : (s.hbint2Run id).out.length = 2 * eaten := heaten ▸ hbInt2_length h s.cfg.maxBlock i x
    have htr : (s.hbint2Run id).trunc = decide (eaten < s.opN) := heaten ▸ hlen ▸ hbInt2_trunc h s.cfg.maxBlock i x
    rw [← hcount, ← htr]
    exact State.completed_halfDone _
  · rw [hhalf]
    exact (hbRun_commit_toggle _ _ _ _ _).trans htoggle
  · have hbad : (s.hbint2Run id).bad = false := hbRun_bad hf (hbInt2_bad h s.cfg.maxBlock i x hf)
    constructor
    · intro m hm
      obtain ⟨w, htaken, heven, hodd⟩ := hbInt2_out h s.cfg.maxBlock i x (heaten.symm ▸ hm)
      rw [State.read_halfDone _ hwf hbad heven, State.read_halfDone _ hwf hbad hodd, htaken.evenOut_eq h,
        htaken.oddOut_eq h]
      exact ⟨congrArg (cellOf · _) hvar, congrArg (cellOf · _) hvar⟩
    · rw [hhalf, hbad, ← heaten]
      exact hbInt2_hasTaken h s.cfg.maxBlock i x

end Sys2Proof.Machine
end

section
/-! PROOFS. FRAC (spec/42_chain_selector.md R231, R232, R448): the resampler as a window that moves over its samples, what one input
makes of it, what a block makes, and what the command leaves. -/

namespace Sys2Proof

theorem Real64.ofNat_six : Real64.ofNat 6 = .six := by decide +kernel

end Sys2Proof

namespace Sys2Proof.Machine

theorem exec_frac (id : Nat) (s : State) : exec (.frac id) s = execFrac id s := rfl

/-! ### The window of the resampler -/

/-- The resampler that holds the four samples of `seq` from `k` on, at the position `mu` (R62). -/
def fracAt (seq : List Cplx) (k : Nat) (mu : Real64) : FracState :=
  { h0 := seq.getD k .zero, h1 := seq.getD (k + 1) .zero, h2 := seq.getD (k + 2) .zero, h3 := seq.getD (k + 3) .zero, mu := mu }

@[simp] theorem fracAt_mu (seq : List Cplx) (k : Nat) (mu : Real64) : (fracAt seq k mu).mu = mu := rfl

@[simp] theorem fracAt_withMu (seq : List Cplx) (k : Nat) (mu v : Real64) :
    (fracAt seq k mu).withMu v = fracAt seq k v := rfl

/-- The next sample moves the window by one. -/
theorem fracAt_shift (seq : List Cplx) (k : Nat) (mu : Real64) :
    (fracAt seq k mu).shift (seq.getD (k + 4) .zero) = fracAt seq (k + 1) mu := rfl

theorem isFinite_getD {seq : List Cplx} (hf : ∀ z ∈ seq, z.isFinite = true) (k : Nat) :
    (seq.getD k .zero).isFinite = true := by
  rw [List.getD_eq_getElem?_getD]
  cases hz : seq[k]? with
  | none => rfl
  | some z => exact hf z (List.mem_of_getElem? hz)

theorem fracAt_bad {seq : List Cplx} (hf : ∀ z ∈ seq, z.isFinite = true) (k : Nat) (mu : Real64) :
    (fracAt seq k mu).bad = false := by
  simp only [FracState.bad, fracAt, isFinite_getD hf, Bool.not_true, Bool.or_self]

/-! ### The outputs of one input (R232) -/

theorem stepped_add (step mu : Real64) (k : Nat) : stepped step (mu.add step) k = stepped step mu (k + 1) := by
  induction k with
  | zero => rfl
  | succ k ih => exact congrArg (Real64.add · step) ih

/-- The cubic at the first `c` positions from `mu` on (R231). -/
def cubicsAt (step : Real64) (seq : List Cplx) (k : Nat) (mu : Real64) (c : Nat) : List Cplx :=
  (List.range c).map fun q => (fracAt seq k (stepped step mu q)).lagrange3

@[simp] theorem cubicsAt_length (step : Real64) (seq : List Cplx) (k : Nat) (mu : Real64) (c : Nat) :
    (cubicsAt step seq k mu c).length = c := by
  simp [cubicsAt]

theorem cubicsAt_getElem? (step : Real64) (seq : List Cplx) (k : Nat) (mu : Real64) {c q : Nat} (hq : q < c) :
    (cubicsAt step seq k mu c)[q]? = some (fracAt seq k (stepped step mu q)).lagrange3 := by
  simp [cubicsAt, hq]

theorem cubicsAt_succ (step : Real64) (seq : List Cplx) (k : Nat) (mu : Real64) (c : Nat) :
    cubicsAt step seq k mu (c + 1) = (fracAt seq k mu).lagrange3 :: cubicsAt step seq k (mu.add step) c := by
  simp [cubicsAt, List.range_succ_eq_map, stepped_add, stepped]

/-! ### The outputs of a block -/

/-- The outputs of the first `m` inputs when input `i` makes `c i` from the position `mu i` on. -/
def cubicsOf (step : Real64) (seq : List Cplx) (c : Nat → Nat) (mu : Nat → Real64) : Nat → List Cplx
  | 0 => []
  | m + 1 => cubicsOf step seq c mu m ++ cubicsAt step seq (m + 1) (mu m) (c m)

@[simp] theorem cubicsOf_length (step : Real64) (seq : List Cplx) (c : Nat → Nat) (mu : Nat → Real64) (m : Nat) :
    (cubicsOf step seq c mu m).length = outputsBefore c m := by
  induction m with
  | zero => rfl
  | succ m ih => simp [cubicsOf, outputsBefore, ih]

/-- Where an output of the first `m` inputs stands, whatever comes after them. -/
theorem cubicsOf_append_getElem? (step : Real64) (seq : List Cplx) {c : Nat → Nat} (mu : Nat → Real64) {m i q : Nat}
    (hi : i < m) (hq : q < c i) (y : List Cplx) :
    (cubicsOf step seq c mu m ++ y)[outputsBefore c i + q]? = some (fracAt seq (i + 1) (stepped step (mu i) q)).lagrange3 := by
  induction m generalizing y with
  | zero => exact absurd hi (Nat.not_lt_zero i)
  | succ m ih =>
    rw [cubicsOf, List.append_assoc]
    rcases Nat.lt_succ_iff_lt_or_eq.mp hi with hi | rfl
    · exact ih hi _
    · rw [List.getElem?_append_right (by simp), cubicsOf_length, Nat.add_sub_cancel_left,
        List.getElem?_append_left (by simpa using hq), cubicsAt_getElem? _ _ _ _ hq]

/-- The samples from the window's end on are the next one and the samples from the moved window's end on. -/
theorem drop_window {seq : List Cplx} {k : Nat} (hk : k + 4 < seq.length) :
    seq.drop (k + 4) = seq.getD (k + 4) .zero :: seq.drop (k + 1 + 4) := by
  rw [List.drop_eq_getElem_cons hk, List.getD_eq_getElem?_getD, List.getElem?_eq_getElem hk, Option.getD_some,
    Nat.add_right_comm k 1 4]

/-- Input `i` makes `c i` outputs and leaves the position `mu (i + 1)` to the next one (R232). -/
def MakesWhole (step : Real64) (c : Nat → Nat) (mu : Nat → Real64) (i : Nat) : Prop :=
  (∀ q < c i, (stepped step (mu i) q).lt .one = true) ∧ (stepped step (mu i) (c i)).lt .one = false ∧
    mu (i + 1) = (stepped step (mu i) (c i)).sub .one

/-! ### The loops of FRAC (R232) -/

section
variable {seq : List Cplx} (hf : ∀ z ∈ seq, z.isFinite = true) {step : Real64}
include hf

/-- The inner loop makes `c` outputs where the first `c` positions lie below 1 and the next one does not, or finds no room; it is cut
exactly when that one still lies below 1. -/
theorem fracInner_eq {c room : Nat} {k : Nat} {mu : Real64} (hroom : c ≤ room)
    (hlt : ∀ q < c, (stepped step mu q).lt .one = true) (hend : c < room → (stepped step mu c).lt .one = false) :
    fracInner step room (fracAt seq k mu) =
      ⟨fracAt seq k (stepped step mu c), cubicsAt step seq k mu c, false, (stepped step mu c).lt .one⟩ := by
  induction c generalizing room mu with
  | zero =>
    cases room with
    | zero => rfl
    | succ room =>
      have hmu : mu.lt .one = false := hend (Nat.succ_pos room)
      simp [fracInner, stepped, cubicsAt, hmu]
  | succ c ih =>
    obtain ⟨room, rfl⟩ : ∃ r, room = r + 1 := ⟨room - 1, by omega⟩
    have hmu : mu.lt .one = true := hlt 0 (Nat.succ_pos c)
    have hrest := ih (mu := mu.add step) (Nat.le_of_succ_le_succ hroom)
      (fun q hq => stepped_add step mu q ▸ hlt (q + 1) (Nat.succ_lt_succ hq))
      (fun hc => stepped_add step mu c ▸ hend (Nat.succ_lt_succ hc))
    simp only [fracInner, fracAt_mu, hmu, if_true, fracAt_withMu, hrest, fracAt_bad hf, cubicsAt_succ, stepped_add, Bool.or_self]

/-- What the loop makes of the first `m` inputs where their outputs fit, and of the rest of the block. -/
theorem fracLoop_whole {c : Nat → Nat} {mu : Nat → Real64} {room m : Nat} (hm : m + 4 ≤ seq.length)
    (hw : ∀ i < m, MakesWhole step c mu i) (hroom : outputsBefore c m ≤ room) :
    fracLoop step room (fracAt seq 0 (mu 0)) (seq.drop 4) =
      let q := fracLoop step (room - outputsBefore c m) (fracAt seq m (mu m)) (seq.drop (m + 4))
      ⟨q.f, cubicsOf step seq c mu m ++ q.out, q.bad, q.trunc⟩ := by
  induction m with
  | zero => rfl
  | succ m ih =>
    obtain ⟨hlt, hend, hmu⟩ := hw m (Nat.lt_succ_self m)
    have hc : c m ≤ room - outputsBefore c m := Nat.le_sub_of_add_le' hroom
    rw [ih (by omega) (fun i hi => hw i (Nat.lt_succ_of_lt hi)) (Nat.le_of_add_right_le hroom), drop_window (by omega)]
    simp only [fracLoop, fracAt_shift, fracInner_eq hf hc hlt fun _ => hend]
    simp [hend, hmu, cubicsOf, outputsBefore, Nat.sub_sub]

/-- A block whose outputs fit is taken whole. -/
theorem fracLoop_all {c : Nat → Nat} {mu : Nat → Real64} {room m : Nat} (hm : m + 4 = seq.length)
    (hw : ∀ i < m, MakesWhole step c mu i) (hroom : outputsBefore c m ≤ room) :
    fracLoop step room (fracAt seq 0 (mu 0)) (seq.drop 4) =
      ⟨fracAt seq m (mu m), cubicsOf step seq c mu m, false, false⟩ := by
  rw [fracLoop_whole hf (Nat.le_of_eq hm) hw hroom, hm, List.drop_length]
  simp [fracLoop]

/-- A block is cut at the input whose outputs pass the room (R232, R448, log 30). -/
theorem fracLoop_cut {c : Nat → Nat} {mu : Nat → Real64} {room m j : Nat} (hm : m + 4 < seq.length)
    (hw : ∀ i < m, MakesWhole step c mu i) (hroom : outputsBefore c m + j = room)
    (hlt : ∀ q ≤ j, (stepped step (mu m) q).lt .one = true) :
    fracLoop step room (fracAt seq 0 (mu 0)) (seq.drop 4) =
      ⟨fracAt seq (m + 1) (stepped step (mu m) j),
        cubicsOf step seq c mu m ++ cubicsAt step seq (m + 1) (mu m) j, false, true⟩ := by
  rw [fracLoop_whole hf (Nat.le_of_lt hm) hw (by omega), show room - outputsBefore c m = j by omega, drop_window hm]
  have hinner := fracInner_eq (k := m + 1) hf (Nat.le_refl j) (fun q hq => hlt q (Nat.le_of_lt hq))
    fun h => absurd h (Nat.lt_irrefl j)
  simp only [fracLoop, fracAt_shift, hinner, hlt j (Nat.le_refl j), if_true]

end

/-! ### What FRAC leaves -/

/-- The run of FRAC on its block. -/
def State.fracRun (s : State) (id : Nat) : Run FracState :=
  s.runFrac s.fracExtent (s.bank id).frac s.opStep (s.input .cplx)

/-- The state FRAC leaves. -/
def State.fracDone (s : State) (id : Nat) : State :=
  let r := s.fracRun id
  (s.setBank id { s.bank id with frac := r.commit r.bad }).finishBuf s.opA (emitted s.draws .cplx r.bad r.out) (bit r.trunc)

/-- The samples FRAC works on: the four it holds, and its block. -/
def State.fracSeq (s : State) (id : Nat) : List Cplx :=
  let f := (s.bank id).frac
  [f.h0, f.h1, f.h2, f.h3] ++ s.input .cplx

theorem State.fracSeq_length (s : State) (id : Nat) : (s.fracSeq id).length = s.opN + 4 := by
  simp [State.fracSeq]

/-- FRAC on a buffer that fits, with a step it runs with. -/
theorem exec_frac_of_ready {s : State} {id : Nat} (hid : id < s.nbanks) (hb : s.BufferOk s.fracExtent)
    (hstep : s.opStep.isPos = true) : exec (.frac id) s = .next (s.fracDone id) := by
  have hfin : s.opStep.isFinite = true := (Bool.and_eq_true_iff.mp hstep).1
  rw [exec_frac, execFrac, State.checked_pass]
  · rfl
  · simp only [List.forall_mem_cons, idCheck_ok, State.sizeCheck_ok, State.boundsCheck_ok]
    exact ⟨hid, hb.1, hfin, hb.2, hstep, by simp⟩

theorem State.completed_fracDone (s : State) (id : Nat) :
    s.Completed (s.fracDone id) (BitVec.ofNat 64 (s.fracRun id).out.length) 0 (s.fracRun id).trunc := by
  cases ht : (s.fracRun id).trunc <;> simp [State.Completed, State.fracDone, Status.ofTrunc, bit, ht]

theorem State.bank_fracDone {s : State} {id : Nat} (hid : id < s.nbanks) :
    (s.fracDone id).bank id = { s.bank id with frac := (s.fracRun id).commit (s.fracRun id).bad } :=
  congrArg Channel.bank (s.chan_setBank_self id _ hid)

/-- An empty block changes nothing of the resampler. -/
theorem State.fracRun_of_empty {s : State} (id : Nat) (hn : s.opN = 0) :
    s.fracRun id = { st := (s.bank id).frac, freed := (s.bank id).frac, out := [], bad := false } := by
  have hx : s.input .cplx = [] := List.length_eq_zero_iff.mp ((s.input_length .cplx).trans hn)
  rw [State.fracRun, hx]
  rfl

section
variable {s : State} {id : Nat} (hid : id < s.nbanks) (hf : ∀ z ∈ s.fracSeq id, z.isFinite = true)
include hf

/-- On finite samples FRAC runs as its loop computes. -/
theorem State.fracRun_of_loop {f : FracState} {out : List Cplx} {trunc : Bool}
    (hl : fracLoop s.opStep s.fracExtent (s.bank id).frac (s.input .cplx) = ⟨f, out, false, trunc⟩) :
    (s.fracRun id).st = f ∧ (s.fracRun id).out = out ∧ (s.fracRun id).bad = false ∧ (s.fracRun id).trunc = trunc := by
  have hx : anyNonFinite (s.input .cplx) = false :=
    (anyNonFinite_eq_false _).mpr fun z hz => hf z (List.mem_append_right _ hz)
  rw [State.fracRun, State.runFrac, hl, hx]
  exact ⟨rfl, rfl, rfl, rfl⟩

include hid

/-- What FRAC leaves of finite samples: the count, the resampler, and the outputs from the base on. -/
theorem State.fracDone_of_loop (hwf : s.sm.wf = true) {f : FracState} {out : List Cplx} {trunc : Bool}
    (hl : fracLoop s.opStep s.fracExtent (s.bank id).frac (s.input .cplx) = ⟨f, out, false, trunc⟩) :
    s.Completed (s.fracDone id) (BitVec.ofNat 64 out.length) 0 trunc ∧ ((s.fracDone id).bank id).frac = f ∧
      ∀ (p : Nat) (z : Cplx), out[p]? = some z → (s.fracDone id).sm.read (s.opA + p) = z := by
  obtain ⟨hst, hout, hbad, htrunc⟩ := State.fracRun_of_loop hf hl
  refine ⟨hout ▸ htrunc ▸ s.completed_fracDone id, ?_, fun p z hz => ?_⟩
  · rw [State.bank_fracDone hid, hbad]
    exact hst
  · have hp : p < out.length := (List.getElem?_eq_some_iff.mp hz).1
    simp only [State.fracDone, State.finishBuf_sm, State.setBank_sm, hbad, emitted_finite, outputAs, hout]
    rw [Mem.read_writeBlock _ _ _ _ hwf, if_pos (by omega), Nat.add_sub_cancel_left, List.getD_eq_getElem?_getD, hz]
    rfl

variable {c : Nat → Nat} {mu : Nat → Real64} (hmu : mu 0 = (s.bank id).frac.mu)
include hmu

/-- FRAC on a block whose outputs fit its extent. -/
theorem State.fracDone_all (hwf : s.sm.wf = true) (hw : ∀ i < s.opN, MakesWhole s.opStep c mu i)
    (hroom : outputsBefore c s.opN ≤ s.fracExtent) :
    s.Completed (s.fracDone id) (BitVec.ofNat 64 (outputsBefore c s.opN)) 0 false ∧
      ((s.fracDone id).bank id).frac = fracAt (s.fracSeq id) s.opN (mu s.opN) ∧
      ∀ i < s.opN, ∀ q < c i, (s.fracDone id).sm.read (s.opA + (outputsBefore c i + q)) =
        (fracAt (s.fracSeq id) (i + 1) (stepped s.opStep (mu i) q)).lagrange3 := by
  have hl := fracLoop_all hf (s.fracSeq_length id).symm hw hroom
  rw [hmu] at hl
  obtain ⟨hdone, hfrac, hread⟩ := State.fracDone_of_loop hid hf hwf hl
  rw [cubicsOf_length] at hdone
  refine ⟨hdone, hfrac, fun i hi q hq => hread _ _ ?_⟩
  simpa using cubicsOf_append_getElem? s.opStep (s.fracSeq id) mu hi hq []

/-- FRAC on a block with an input whose outputs pass its extent. -/
theorem State.fracDone_cut (hwf : s.sm.wf = true) {m j : Nat} (hm : m < s.opN) (hw : ∀ i < m, MakesWhole s.opStep c mu i)
    (hroom : outputsBefore c m + j = s.fracExtent) (hlt : ∀ q ≤ j, (stepped s.opStep (mu m) q).lt .one = true) :
    s.Completed (s.fracDone id) (BitVec.ofNat 64 s.fracExtent) 0 true ∧
      ((s.fracDone id).bank id).frac = fracAt (s.fracSeq id) (m + 1) (stepped s.opStep (mu m) j) ∧
      ∀ i ≤ m, ∀ q < (if i = m then j else c i), (s.fracDone id).sm.read (s.opA + (outputsBefore c i + q)) =
        (fracAt (s.fracSeq id) (i + 1) (stepped s.opStep (mu i) q)).lagrange3 := by
  have hl := fracLoop_cut hf (by rw [State.fracSeq_length]; omega) hw hroom hlt
  rw [hmu] at hl
  obtain ⟨hdone, hfrac, hread⟩ := State.fracDone_of_loop hid hf hwf hl
  rw [List.length_append, cubicsOf_length, cubicsAt_length, hroom] at hdone
  refine ⟨hdone, hfrac, fun i hi q hq => hread _ _ ?_⟩
  rcases Nat.lt_or_eq_of_le hi with hi | rfl
  · rw [if_neg (Nat.ne_of_lt hi)] at hq
    exact cubicsOf_append_getElem? _ _ mu hi hq _
  · rw [if_pos rfl] at hq
    rw [List.getElem?_append_right (by simp), cubicsOf_length, Nat.add_sub_cancel_left, cubicsAt_getElem? _ _ _ _ hq]

end

/-! ### A step of 1 -/

theorem outputsBefore_one (m : Nat) : outputsBefore (fun _ => 1) m = m := by
  induction m with
  | zero => rfl
  | succ m ih => exact congrArg (· + 1) ih

/-- With a step of 1 and no fraction every input makes one output and leaves no fraction. -/
theorem makesWhole_one (i : Nat) : MakesWhole .one (fun _ => 1) (fun _ => .zero) i := by
  refine ⟨fun q hq => ?_, ?_, ?_⟩
  · rw [Nat.lt_one_iff.mp hq]
    change Real64.zero.lt .one = true
    decide
  · change (Real64.zero.add .one).lt .one = false
    decide +kernel
  · change Real64.zero = (Real64.zero.add .one).sub .one
    decide +kernel

theorem State.fracExtent_of_one {s : State} (h : s.opStep = .one) : s.fracExtent = s.opN := by
  rw [State.fracExtent, h]
  rfl

/-! ### FRAC -/

/-- Settles O40: the loop's outputs, input by input, as cubics of a window that moves over the samples. -/
theorem fracResamples : Obligations.FracResamples := by
  intro s id hid hwf _ hb hstep f x seq cubic held
  have hexec := exec_frac_of_ready hid hb hstep
  have hcubic : ∀ k mu, (fracAt seq k mu).lagrange3 = cubic k mu := fun k mu => by
    simp only [cubic, Real64.ofNat_six]
    rfl
  refine ⟨?_, fun hone hzero hf => ?_, fun c mu m hmu hw hf => ⟨?_, fun hm j hroom hlt => ?_⟩⟩
  · refine ⟨_, _, _, hexec, s.completed_fracDone id, fracLoop_length _ _ _ _, fun hn => ?_⟩
    rw [State.bank_fracDone hid, State.fracRun_of_empty id hn]
    exact ⟨rfl, rfl⟩
  · have hroom : outputsBefore (fun _ => 1) s.opN ≤ s.fracExtent :=
      Nat.le_of_eq ((outputsBefore_one s.opN).trans (State.fracExtent_of_one hone).symm)
    obtain ⟨hdone, hfrac, hread⟩ := State.fracDone_all hid hf hzero.symm hwf (fun i _ => hone ▸ makesWhole_one i) hroom
    rw [outputsBefore_one, show BitVec.ofNat 64 s.opN = s.a1 by simp [State.opN]] at hdone
    refine ⟨_, hexec, hdone, hfrac, fun i hi => ?_⟩
    have hout := hread i hi 0 Nat.one_pos
    rw [outputsBefore_one] at hout
    exact hout.trans (hcubic (i + 1) .zero)
  · rintro rfl hroom
    obtain ⟨hdone, hfrac, hread⟩ := State.fracDone_all hid hf hmu hwf hw hroom
    exact ⟨_, hexec, hdone, hfrac, fun i hi q hq => (hread i hi q hq).trans (hcubic _ _)⟩
  · obtain ⟨hdone, hfrac, hread⟩ := State.fracDone_cut hid hf hmu hwf hm hw hroom hlt
    exact ⟨_, hexec, hdone, hfrac, fun i hi q hq => (hread i hi q hq).trans (hcubic _ _)⟩

end Sys2Proof.Machine
end

section
/-! PROOFS. Transmit (spec/43_demod_bank.md R272 to R274, R448; log 19): what MODINIT installs, what MOD reads and writes, and where its
output is cut. -/

namespace Sys2Proof.Machine

/-! ### Dispatch, and the end of a command with sample output -/

theorem exec_modinit (id : Nat) (s : State) : exec (.modinit id) s = execModinit id s := rfl
theorem exec_mod (id : Nat) (s : State) : exec (.mod id) s = execMod id s := rfl

/-- A command completes with the number of its outputs, whatever it did to other fields than the control registers. -/
theorem State.completed_finishBuf {s u : State} (base : Nat) (out : List Cplx) (cut : Bool) (h : u.cr = s.cr) :
    s.Completed (u.finishBuf base out (bit cut)) (BitVec.ofNat 64 out.length) 0 cut := by
  cases cut <;> simp [State.Completed, Status.ofTrunc, bit, h]

/-- The outputs stand from the base on. -/
theorem State.read_finishBuf {s : State} {base truncs k : Nat} {out : List Cplx} {z : Cplx} (hwf : s.sm.wf = true)
    (hz : out[k]? = some z) : (s.finishBuf base out truncs).sm.read (base + k) = z := by
  have hk : k < out.length := (List.getElem?_eq_some_iff.mp hz).1
  rw [State.finishBuf_sm, Mem.read_writeBlock _ _ _ _ hwf, if_pos (by omega), Nat.add_sub_cancel_left,
    List.getD_eq_getElem?_getD, hz, Option.getD_some]

/-- A bank reads back as it was written. -/
theorem State.bank_setBank_self {s : State} {b : Nat} (k : Bank) (h : b < s.nbanks) : (s.setBank b k).bank b = k :=
  congrArg Channel.bank (s.chan_setBank_self b k h)

/-! ### MODINIT -/

/-- MODINIT of a mode that exists, with a `TxBundle` (R273). -/
theorem exec_modinit_of_bundle {s : State} {id : Nat} (hid : id < s.nbanks) (htx : s.cfg.txBundle = true)
    (hm : (s.bankRegs id).mode.toNat ≤ 12) :
    exec (.modinit id) s = .next (s.setBank id { s.bank id with
      tx := { valid := true, mode := (s.bankRegs id).mode.toNat,
              adapter := Config.txInit (s.bankRegs id).mode.toNat } }).finishInit := by
  rw [exec_modinit, execModinit, State.checked_pass]
  simp [idCheck, hid, hm, htx]

/-! ### What MOD reads -/

/-- A real sequence is finite where its real parts are. -/
theorem anyNonFinite_eq_false_of_real {x : List Cplx} (him : ∀ z ∈ x, z.im = .zero)
    (hre : ∀ v ∈ x.map Cplx.re, v.isFinite = true) : anyNonFinite x = false := by
  refine (anyNonFinite_eq_false x).mpr fun z hz => ?_
  rw [Cplx.isFinite, him z hz, hre z.re (List.mem_map_of_mem hz)]
  rfl

/-- The microphone samples MOD reads. -/
def State.micBlock (s : State) : List Real64 := (List.range s.opN).map fun k => (s.sm.read (s.opA + k)).re

theorem State.input_real_re (s : State) : (s.input .real).map Cplx.re = s.micBlock := by
  simp only [State.input, State.micBlock, Mem.readBlock, List.map_map]
  rfl

/-- MOD reads a value that is not finite, in its block or in its registers (R11). -/
def State.modBad (s : State) : Bool :=
  anyNonFinite (s.input .real) || anyNonFiniteReal [s.cr.micPreemph, s.cr.micClip, s.cr.micVox]

theorem State.modBad_eq_false {s : State}
    (h : ∀ v ∈ s.micBlock ++ [s.cr.micPreemph, s.cr.micClip, s.cr.micVox], v.isFinite = true) : s.modBad = false := by
  obtain ⟨hblock, hregs⟩ := List.forall_mem_append.mp h
  rw [← s.input_real_re] at hblock
  rw [State.modBad, anyNonFinite_eq_false_of_real s.input_real_im hblock, (anyNonFiniteReal_eq_false _).mpr hregs, Bool.or_false]

/-! ### What MOD leaves -/

@[simp] theorem txStream_length (z : Nat × List Cplx) (count : Nat) : (txStream z count).length = count := by
  simp [txStream]

theorem txStream_getElem? (z : Nat × List Cplx) {count k : Nat} (hk : k < count) :
    (txStream z count)[k]? = some (Config.txInterpolate z.1 z.2 k) := by
  simp [txStream, hk]

/-- The baseband MOD interpolates, and the adapter's state with it (R274). -/
def State.modBaseband (s : State) (id : Nat) : Nat × List Cplx := txBaseband s.cr (s.bank id).tx.adapter s.micBlock

/-- How many outputs MOD would write without a limit (R274). -/
def State.modCount (s : State) (id : Nat) : Nat := Config.txCount (s.bank id).tx.adapter s.opN

/-- The samples MOD writes (R11, R448). -/
def State.modOut (s : State) (id : Nat) : List Cplx :=
  emitted s.draws .cplx s.modBad (txStream (s.modBaseband id) (min (s.modCount id) s.cfg.maxBlock))

/-- The transmit state MOD leaves. -/
def State.modTx (s : State) (id : Nat) : TxState :=
  { (s.bank id).tx with adapter := Config.txInterpolateState (s.modBaseband id).1 (s.modBaseband id).2 }

/-- The state MOD leaves. -/
def State.modDone (s : State) (id : Nat) : State :=
  (s.setBank id { s.bank id with tx := s.modTx id }).finishBuf s.opA (s.modOut id)
    (bit (decide (s.cfg.maxBlock < s.modCount id)))

@[simp] theorem State.modOut_length (s : State) (id : Nat) :
    (s.modOut id).length = min (s.modCount id) s.cfg.maxBlock := by
  simp [State.modOut]

theorem State.modOut_getElem? {s : State} {id k : Nat} (hbad : s.modBad = false)
    (hk : k < min (s.modCount id) s.cfg.maxBlock) :
    (s.modOut id)[k]? = some (Config.txInterpolate (s.modBaseband id).1 (s.modBaseband id).2 k) := by
  rw [State.modOut, hbad, emitted_finite]
  exact txStream_getElem? _ hk

/-- MOD of a bank that MODINIT has bound, on a buffer with room for `MAXBLOCK` samples. -/
theorem exec_mod_of_ready {s : State} {id : Nat} (hid : id < s.nbanks) (hb : s.BufferOk s.cfg.maxBlock)
    (hv : (s.bank id).tx.valid = true) : exec (.mod id) s = .next (s.modDone id) := by
  rw [exec_mod, execMod, State.checked_pass]
  · simp only [s.input_real_re]
    rfl
  · simp only [State.bankBufChecks, List.cons_append, List.nil_append, List.forall_mem_cons, idCheck_ok, State.sizeCheck_ok,
      State.boundsCheck_ok, boundCheck_ok]
    exact ⟨hid, hb.1, hb.2, hv, by simp⟩

/-- Settles O47: MODINIT installs the adapter's first state; MOD writes as much of the interpolated stream as `MAXBLOCK` admits. -/
theorem transmitCompletes : Obligations.TransmitCompletes := by
  intro s id hid
  constructor
  · intro htx hm
    exact ⟨_, exec_modinit_of_bundle hid htx hm, State.completed_finishInit rfl,
      congrArg Bank.tx (State.bank_setBank_self _ hid)⟩
  · intro hb hwf _ hv
    have hdone : s.Completed (s.modDone id) _ 0 _ := State.completed_finishBuf s.opA (s.modOut id) _ rfl
    rw [State.modOut_length] at hdone
    refine ⟨_, exec_mod_of_ready hid hb hv, hdone, fun hfin => ⟨?_, fun k hk => ?_⟩⟩
    · exact congrArg (fun k : Bank => k.tx.adapter) (State.bank_setBank_self { s.bank id with tx := s.modTx id } hid)
    · exact State.read_finishBuf hwf (State.modOut_getElem? (State.modBad_eq_false hfin) hk)

end Sys2Proof.Machine
end

section
/-! PROOFS. The initialisers of a bank's AGC, blanker and notch (spec/44_agc.md R301, spec/45_noise_blanker.md R331,
spec/46_auto_notch.md R361), and AGCRUN (R303 to R307): what it leaves of its block, and the six steps of one sample. -/

namespace Sys2Proof.Machine

/-! ### Dispatch -/

theorem exec_agcinit (v : Bool) (id : Nat) (s : State) : exec (.agcinit v id) s = execAgcinit v id s := rfl
theorem exec_agcrun (x : Bool) (id : Nat) (s : State) : exec (.agcrun x id) s = execAgcrun x id s := rfl
theorem exec_nbinit (id : Nat) (s : State) : exec (.nbinit id) s = execNbinit id s := rfl
theorem exec_aninit (id : Nat) (s : State) : exec (.aninit id) s = execAninit id s := rfl

/-! ### The initialisers (R301, R331, R361) -/

theorem posCheck_ok (x : Real64) : (posCheck x).ok = x.isPos := rfl

/-- The state ANINIT leaves: the fresh notch, and both bins shown as empty. -/
def State.aninitDone (s : State) (id : Nat) : State :=
  let t := NotchState.fresh s.cfg s.opReal
  { s.consulted.setBank id { s.bank id with notch := t } with cr := s.cr.showNotch t }.finishInit

section
variable {s : State} {id : Nat} (hid : id < s.nbanks) (ha : s.allocOk = true)
include hid ha

/-- AGCINIT at a rate that gives a look-ahead in range. -/
theorem exec_agcinit_of_ready (v : Bool) {n : Nat} (hfs : s.opReal.isPos = true) (hrg : s.cr.agcRelGain.isPos = true)
    (hlen : Params.agcLen s.cfg s.opReal = some (n : Int)) (h1 : 1 ≤ n) (hmax : n ≤ s.cfg.maxBlock) :
    exec (.agcinit v id) s = .next (s.consulted.setBank id
      { s.bank id with agc := .fresh s.opReal s.cr.agcRelGain n v }).finishInit := by
  dsimp only [exec_agcinit, execAgcinit]
  rw [State.checked_pass, State.allocating_pass fun _ => ha, hlen]
  · rfl
  · simp only [List.forall_mem_cons, idCheck_ok, posCheck_ok, hlen, Option.any_some, decide_eq_true_eq]
    exact ⟨hid, hfs, hrg, by omega, by simp⟩

/-- NBINIT at an input rate that gives a delay line in range. -/
theorem exec_nbinit_of_ready {n hz : Nat} (hrate : s.cfg.rateHz s.cr.rateIn.toNat = some hz)
    (hlen : Params.nbLen s.cfg hz = some (n : Int)) (h2 : 2 ≤ n) (hmax : n ≤ s.cfg.maxBlock) :
    exec (.nbinit id) s = .next (s.consulted.setBank id { s.bank id with nb := .fresh n }).finishInit := by
  dsimp only [exec_nbinit, execNbinit]
  rw [State.checked_pass, State.allocating_pass fun _ => ha, hrate, Option.getD_some, hlen]
  · rfl
  · simp only [List.forall_mem_cons, idCheck_ok, hrate, Option.isSome_some, Option.getD_some, hlen, Option.any_some,
      decide_eq_true_eq]
    exact ⟨hid, trivial, by omega, by simp⟩

/-- ANINIT of the primary bank. -/
theorem exec_aninit_of_ready (h0 : id = 0) (hfs : s.opReal.isPos = true) :
    exec (.aninit id) s = .next (s.aninitDone id) := by
  dsimp only [exec_aninit, execAninit]
  rw [State.checked_pass, State.allocating_pass fun _ => ha]
  · rfl
  · simp only [List.forall_mem_cons, idCheck_ok, posCheck_ok, primaryCheck, decide_eq_true_eq]
    exact ⟨hid, h0, hfs, by simp⟩

end

theorem State.completed_aninitDone (s : State) (id : Nat) : s.Completed (s.aninitDone id) 0 0 false := by
  simp [State.Completed, State.aninitDone, CtrlRegs.showNotch, Status.ofTrunc]

/-- Settles O49: each initialiser passes its checks, consults the oracle, and installs the fresh component. -/
theorem componentsAreInitialised : Obligations.ComponentsAreInitialised := by
  intro s v id hid ha
  have hbank : ∀ k, (s.consulted.setBank id k).finishInit.bank id = k := fun k => State.bank_setBank_self k hid
  refine ⟨fun n hfs hrg hlen h1 hmax => ?agcinit, fun n hz hrate hlen h2 hmax => ?nbinit, fun h0 hfs => ?aninit⟩
  case agcinit =>
    exact ⟨_, exec_agcinit_of_ready hid ha v hfs hrg hlen h1 hmax, State.completed_finishInit rfl, congrArg Bank.agc (hbank _)⟩
  case nbinit =>
    exact ⟨_, exec_nbinit_of_ready hid ha hrate hlen h2 hmax, State.completed_finishInit rfl, congrArg Bank.nb (hbank _)⟩
  case aninit =>
    exact ⟨_, exec_aninit_of_ready hid ha h0 hfs, s.completed_aninitDone id, rfl, rfl, congrArg Bank.notch (hbank _)⟩

/-! ### What AGCRUN leaves -/

/-- The sample type of AGCRUN's block. -/
def agcVariant (x : Bool) : Variant := if x then .cplx else .real

/-- The run of AGCRUN on its block. -/
def State.agcRun (s : State) (x : Bool) (id : Nat) : AgcRun := s.runAgc (s.bank id).agc x (s.input (agcVariant x))

/-- The state AGCRUN leaves. -/
def State.agcDone (s : State) (x : Bool) (id : Nat) : State :=
  let r := s.agcRun x id
  let g := r.commit r.bad
  { s.setBank id { s.bank id with agc := g } with cr := s.cr.afterAgc id r.clamped g.gain }.finishBuf s.opA
    (emitted s.draws (agcVariant x) r.bad r.out) 0

/-- AGCRUN of a bank that AGCINIT has bound, on a buffer that fits. -/
theorem exec_agcrun_of_ready {s : State} {id : Nat} (x : Bool) (hid : id < s.nbanks) (hb : s.BufferOk s.opN)
    (hv : (s.bank id).agc.valid = true) (hregs : s.AgcRegistersOk) : exec (.agcrun x id) s = .next (s.agcDone x id) := by
  obtain ⟨hsize, hbounds⟩ := hb
  obtain ⟨hmo, hrg, htr⟩ := hregs
  rw [exec_agcrun, execAgcrun, State.checked_pass]
  · rfl
  · simp only [State.agcChecks, extentSame, List.cons_append, List.nil_append, List.forall_mem_cons, idCheck_ok,
      State.sizeCheck_ok, State.boundsCheck_ok, boundCheck_ok, posCheck_ok]
    exact ⟨hid, hsize, hbounds, hv, hmo, hrg, htr, by simp⟩

theorem State.completed_agcDone (s : State) (x : Bool) (id : Nat) :
    s.Completed (s.agcDone x id) (BitVec.ofNat 64 (s.agcRun x id).out.length) 0 false := by
  simp [State.Completed, State.agcDone, CtrlRegs.afterAgc_eq, Status.ofTrunc]

theorem State.agc_agcDone {s : State} {id : Nat} (x : Bool) (hid : id < s.nbanks) :
    ((s.agcDone x id).bank id).agc = (s.agcRun x id).commit (s.agcRun x id).bad :=
  congrArg Bank.agc (State.bank_setBank_self { s.bank id with agc := (s.agcRun x id).commit (s.agcRun x id).bad } hid)

/-! ### The steps of one sample, without the branches of the state (R303) -/

/-- Step 4: what a sample that may begin a correction leaves. -/
theorem AGCState.corrected_if (g : AGCState) (mo lev : Real64) (begins : Bool) :
    let t := if begins then mo.div lev else g.targetGain
    (if begins then g.corrected mo lev else g) =
      { g with
        targetGain := t, delta := if begins then (g.gain.sub t).div (.ofNat g.len) else g.delta,
        clipping := g.clipping || begins } := by
  cases begins with
  | false => simp
  | true => simp [AGCState.corrected]

/-- Step 5: the ramp of a correction, which ends when it reaches the target, or the smoothing. -/
theorem AGCState.gainStep_eq (g : AGCState) :
    let reached := (g.gain.sub g.delta).le g.targetGain
    g.gainStep =
      { g with
        gain := if g.clipping then (if reached then g.targetGain else g.gain.sub g.delta)
          else g.gain.add ((g.targetGain.sub g.gain).mul g.alpha),
        clipping := g.clipping && !reached } := by
  dsimp only
  cases hc : g.clipping with
  | false => simp [AGCState.gainStep, hc]
  | true => cases hr : (g.gain.sub g.delta).le g.targetGain <;> simp [AGCState.gainStep, hc, hr]

/-- Step 6: the release target where a revolution ends. -/
theorem AGCState.released_if (p : Params) (rg : Real64) (g : AGCState) (turn : Bool) :
    (if turn then g.released p rg else g) =
      { g with
        targetGain :=
          if turn then (if g.maxMag.eqv .zero then rg else if g.fm then p.clip.div g.maxMag else rg.min (p.clip.div g.maxMag))
          else g.targetGain,
        maxMag := if turn then .zero else g.maxMag } := by
  cases turn with
  | false => simp
  | true => simp [AGCState.released]

/-! ### A block of one sample -/

theorem cellOf_cellOf (v : Variant) (z : Cplx) : cellOf v (cellOf v z) = cellOf v z := by cases v <;> rfl

theorem outputAs_singleton (v : Variant) (z : Cplx) : outputAs v [z] = [cellOf v z] := by cases v <;> rfl

theorem State.input_of_one {s : State} (v : Variant) (hn : s.opN = 1) : s.input v = [cellOf v (s.sm.read s.opA)] := by
  cases v <;> simp [State.input, hn, Mem.readBlock, cellOf]

/-- What one sample of AGCRUN's block does to the AGC, the smoothing factor recomputed before it (R305). -/
def State.agcFirst (s : State) (x : Bool) (id : Nat) : AgcStep :=
  let g := (s.bank id).agc
  agcStep s.cfg x s.cr.agcMaxOut s.cr.agcRelGain { g with alpha := agcAlpha s.cfg s.cr.agcRelTime g.fs }
    (cellOf (agcVariant x) (s.sm.read s.opA))

section
variable {s : State} {x : Bool} {id : Nat} (hn : s.opN = 1)
include hn

/-- On one finite sample the run is one step of the loop. -/
theorem State.agcRun_of_one (hv : (cellOf (agcVariant x) (s.sm.read s.opA)).isFinite = true)
    (hd : ((s.bank id).agc.buf.getD (s.bank id).agc.indexRead .zero).isFinite = true) :
    let r := s.agcRun x id
    r.st = (s.agcFirst x id).g ∧ r.out = [cellOf (agcVariant x) (s.agcFirst x id).out] ∧ r.bad = false ∧
      r.clamped = bit (s.agcFirst x id).limit := by
  rw [State.agcRun, State.input_of_one _ hn]
  refine ⟨rfl, outputAs_singleton _ _, ?_, Nat.zero_add _⟩
  simp only [State.runAgc, agcLoop, anyNonFinite, List.any_cons, List.any_nil, hv, hd, Bool.not_true, Bool.or_self]

/-- What AGCRUN leaves of one finite sample: the AGC, its output, the count of clamped samples. -/
theorem State.agcDone_of_one (hid : id < s.nbanks) (hwf : s.sm.wf = true)
    (hv : (cellOf (agcVariant x) (s.sm.read s.opA)).isFinite = true)
    (hd : ((s.bank id).agc.buf.getD (s.bank id).agc.indexRead .zero).isFinite = true) :
    s.Completed (s.agcDone x id) 1 0 false ∧
      (s.agcDone x id).sm.read s.opA = cellOf (agcVariant x) (s.agcFirst x id).out ∧
      (s.agcDone x id).cr.ovrCnt = s.cr.ovrCnt + (if (s.agcFirst x id).limit then 1 else 0) ∧
      ((s.agcDone x id).bank id).agc = (s.agcFirst x id).g := by
  obtain ⟨hst, hout, hbad, hclamped⟩ := State.agcRun_of_one hn hv hd
  have hdone := s.completed_agcDone x id
  rw [hout] at hdone
  refine ⟨hdone, ?_, ?_, ?_⟩
  · refine State.read_finishBuf (k := 0) hwf ?_
    rw [hbad, hout, emitted_finite, outputAs_singleton, cellOf_cellOf]
    rfl
  · change s.cr.ovrCnt + BitVec.ofNat 32 (s.agcRun x id).clamped = _
    rw [hclamped]
    cases (s.agcFirst x id).limit <;> rfl
  · rw [State.agc_agcDone x hid, hbad]
    exact hst

end

/-- Settles O51: AGCRUN on one finite sample is one step of its loop, and the step is its six parts one after the other. -/
theorem agcOneSample : Obligations.AgcOneSample := by
  intro s x id hid hwf hb hn _ g v level delayed alpha peak begins target delta correcting reached clipping cursor turn release
    hvalid _ hregs hv hd
  obtain ⟨hdone, hread, hovr, hagc⟩ := State.agcDone_of_one hn hid hwf hv hd
  refine ⟨_, exec_agcrun_of_ready x hid hb hvalid hregs, hdone, hread, hovr, hagc.trans ?_⟩
  simp only [State.agcFirst, agcStep, AGCState.corrected_if, AGCState.gainStep_eq, AGCState.released_if]
  rfl

end Sys2Proof.Machine
end

section
/-! PROOFS. NBRUN (spec/45_noise_blanker.md R333 to R336): what one sample does to the blanker, its cells included, what a block leaves
of the counts, and the pure delay while nothing is blanked. -/

namespace Sys2Proof.Machine

theorem exec_nbrun (id : Nat) (s : State) : exec (.nbrun id) s = execNbrun id s := rfl

/-- An entry of a line after one of its entries is written. -/
theorem getD_set_of_lt {l : List Cplx} {i : Nat} (z : Cplx) (j : Nat) (hi : i < l.length) :
    (l.set i z).getD j .zero = if j = i then z else l.getD j .zero := by
  by_cases h : j = i
  · simp [h, hi]
  · simp [h, Ne.symm h]

/-! ### The fade before a pulse (R335) -/

/-- The delay line with the `n` cells before the cursor faded. -/
def NBState.fadedLine (b : NBState) : Nat → List Cplx
  | 0 => b.bufS
  | n + 1 => (b.fadedLine n).set (b.back (n + 1))
      (((b.fadedLine n).getD (b.back (n + 1)) .zero).scale ((Real64.ofNat n).div (.ofNat b.h)))

/-- One step of the fade: the cell `i + 1` places before the cursor of `b`. -/
def NBState.fadeStep (b acc : NBState) (i : Nat) : NBState :=
  { acc with
    bufS := acc.bufS.set (b.back (i + 1))
      ((acc.bufS.getD (b.back (i + 1)) .zero).scale ((Real64.ofNat i).div (.ofNat b.h))) }

theorem NBState.foldl_fadeStep (b : NBState) (n : Nat) :
    (List.range n).foldl b.fadeStep b = { b with bufS := b.fadedLine n } := by
  induction n with
  | zero => rfl
  | succ n ih => rw [List.range_succ, List.foldl_append, ih]; rfl

/-- The fade changes the delay line and nothing else. -/
theorem NBState.faded_eq (b : NBState) : b.faded = { b with bufS := b.fadedLine b.h } := b.foldl_fadeStep b.h

/-- Places less than a revolution back are different cells; the cursor is 0 places back. -/
theorem NBState.back_inj {b : NBState} {d e : Nat} (hi : b.idx < b.w) (hd : d < b.w) (he : e < b.w)
    (h : b.back d = b.back e) : d = e := by
  unfold NBState.back at h
  rw [mod_of_lt_two_mul (by omega), mod_of_lt_two_mul (by omega)] at h
  split at h <;> split at h <;> omega

theorem NBState.back_zero {b : NBState} (hi : b.idx < b.w) : b.back 0 = b.idx := by
  simp [NBState.back, Nat.mod_eq_of_lt hi]

theorem NBState.back_ne_idx {b : NBState} {d : Nat} (hi : b.idx < b.w) (h1 : 1 ≤ d) (hd : d < b.w) : b.back d ≠ b.idx := by
  intro h
  have := NBState.back_inj hi hd (Nat.zero_lt_of_lt hi) (h.trans (NBState.back_zero hi).symm)
  omega

@[simp] theorem NBState.fadedLine_length (b : NBState) (n : Nat) : (b.fadedLine n).length = b.bufS.length := by
  induction n with
  | zero => rfl
  | succ n ih => simp [NBState.fadedLine, ih]

/-- The fade leaves the other cells alone. -/
theorem NBState.fadedLine_kept {b : NBState} {n j : Nat} (h : ∀ d, 1 ≤ d → d ≤ n → j ≠ b.back d) :
    (b.fadedLine n).getD j .zero = b.bufS.getD j .zero := by
  induction n with
  | zero => rfl
  | succ n ih =>
    have hj : b.back (n + 1) ≠ j := (h (n + 1) (by omega) (Nat.le_refl _)).symm
    calc (b.fadedLine (n + 1)).getD j .zero = (b.fadedLine n).getD j .zero := by simp [NBState.fadedLine, hj]
      _ = b.bufS.getD j .zero := ih fun d h1 hd => h d h1 (Nat.le_succ_of_le hd)

/-- The cell `d` places back is weighted `(d − 1) / H`. -/
theorem NBState.fadedLine_back {b : NBState} {n d : Nat} (hi : b.idx < b.w) (hl : b.bufS.length = b.w) (hn : n < b.w)
    (h1 : 1 ≤ d) (hd : d ≤ n) :
    (b.fadedLine n).getD (b.back d) .zero = (b.bufS.getD (b.back d) .zero).scale ((Real64.ofNat (d - 1)).div (.ofNat b.h)) := by
  induction n with
  | zero => omega
  | succ n ih =>
    have hback : b.back (n + 1) < (b.fadedLine n).length := by
      rw [NBState.fadedLine_length, hl]
      exact Nat.mod_lt _ (by omega)
    rw [NBState.fadedLine, getD_set_of_lt _ _ hback]
    by_cases hnew : d = n + 1
    · subst hnew
      have hkept : ∀ e, 1 ≤ e → e ≤ n → b.back (n + 1) ≠ b.back e := fun e _ he h => by
        have := NBState.back_inj hi hn (by omega) h
        omega
      rw [if_pos rfl, NBState.fadedLine_kept hkept, Nat.add_sub_cancel]
    · rw [if_neg fun h => hnew (NBState.back_inj hi (by omega) hn h)]
      exact ih (by omega) (by omega)

/-! ### One sample (R333) -/

/-- The ramp's position where this sample would continue it: a pulse that ends starts the ramp. -/
def NBState.rampAt (b : NBState) : Nat := if b.st = .pulseActive then 0 else b.ramp

/-- What a sample leaves at the cursor: nothing of a pulse, itself, or itself on the rising ramp. -/
def NBState.stored (b : NBState) (pulsed : Bool) (v : Cplx) : Cplx :=
  if pulsed then .zero else if b.st = .normal then v else v.scale ((Real64.ofNat b.rampAt).div (.ofNat b.h))

/-- The delay line a sample leaves. -/
def NBState.lineAfter (b : NBState) (pulsed : Bool) (v : Cplx) : List Cplx :=
  (if b.fades pulsed then b.fadedLine b.h else b.bufS).set b.idx (b.stored pulsed v)

@[simp] theorem NBState.lineAfter_length (b : NBState) (pulsed : Bool) (v : Cplx) :
    (b.lineAfter pulsed v).length = b.bufS.length := by
  cases hf : b.fades pulsed <;> simp [NBState.lineAfter, hf]

section
variable {b : NBState} {pulsed : Bool} {v : Cplx}

theorem NBState.lineAfter_cursor (hi : b.idx < b.bufS.length) :
    (b.lineAfter pulsed v).getD b.idx .zero = b.stored pulsed v := by
  rw [NBState.lineAfter, getD_set_of_lt _ _ (by split <;> simpa using hi), if_pos rfl]

/-- A sample that starts no fade leaves the other cells alone. -/
theorem NBState.lineAfter_of_not_fades {j : Nat} (hf : b.fades pulsed = false) (hj : j ≠ b.idx) :
    (b.lineAfter pulsed v).getD j .zero = b.bufS.getD j .zero := by
  simp [NBState.lineAfter, hf, Ne.symm hj]

/-- A sample that starts a fade leaves the other cells as the fade does. -/
theorem NBState.lineAfter_of_fades {j : Nat} (hf : b.fades pulsed = true) (hj : j ≠ b.idx) :
    (b.lineAfter pulsed v).getD j .zero = (b.fadedLine b.h).getD j .zero := by
  simp [NBState.lineAfter, hf, Ne.symm hj]

end

/-- The state machine, without the branches of its state. -/
theorem NBState.machine_eq (b : NBState) (pulsed : Bool) (v : Cplx) :
    b.machine pulsed v =
      { b with
        bufS := b.lineAfter pulsed v,
        st := if pulsed then .pulseActive else if b.st = .normal ∨ b.rampAt + 1 = b.h then .normal else .windowRaising,
        ramp := if pulsed ∨ b.st = .normal then b.ramp else b.rampAt + 1 } := by
  cases hst : b.st <;> cases pulsed <;>
    simp [NBState.machine, NBState.lineAfter, NBState.stored, NBState.rampAt, NBState.fades, NBState.raiseStep, NBState.put,
      NBState.faded_eq, hst]

/-- The detector on a sample, its magnitude already in the running sum (R334). -/
def NBState.detects (b : NBState) (p : Params) (thr : Real64) (x : Cplx) : Bool :=
  (b.measured (p.mag x)).pulsed thr (p.mag x)

theorem NBState.detects_eq (b : NBState) (p : Params) (thr : Real64) (x : Cplx) :
    b.detects p thr x = decide (b.w ≤ b.seen ∧
      ((((b.sum.sub (b.bufM.getD b.idx .zero)).add (p.mag x)).div (.ofNat b.w)).mul thr).lt (p.mag x) = true) := by
  rw [Bool.decide_and, Bool.decide_eq_true]
  rfl

/-- The detector holds off until `W` samples have been seen. -/
theorem NBState.detects_of_lt {b : NBState} {p : Params} {thr : Real64} {x : Cplx} (h : b.seen < b.w) :
    b.detects p thr x = false :=
  (b.detects_eq p thr x).trans (decide_eq_false fun ⟨hseen, _⟩ => Nat.not_le_of_lt h hseen)

/-- The blanker after one sample. -/
def NBState.sampled (p : Params) (thr : Real64) (b : NBState) (x : Cplx) : NBState :=
  { (b.measured (p.mag x)).counted.machine (b.detects p thr x) x with idx := (b.idx + 1) % b.w }

theorem NBState.lineAfter_measured (b : NBState) (mag : Real64) (pulsed : Bool) (v : Cplx) :
    (b.measured mag).counted.lineAfter pulsed v = b.lineAfter pulsed v := by
  have hline : ∀ n, (b.measured mag).counted.fadedLine n = b.fadedLine n := fun n => by
    induction n with
    | zero => rfl
    | succ n ih => rw [NBState.fadedLine, ih]; rfl
  rw [NBState.lineAfter, hline]
  rfl

/-- One sample, field by field. -/
theorem NBState.sampled_eq (p : Params) (thr : Real64) (b : NBState) (x : Cplx) :
    b.sampled p thr x =
      { b with
        bufS := b.lineAfter (b.detects p thr x) x,
        bufM := b.bufM.set b.idx (p.mag x),
        sum := (b.sum.sub (b.bufM.getD b.idx .zero)).add (p.mag x),
        idx := (b.idx + 1) % b.w,
        seen := if b.seen < b.w then b.seen + 1 else b.seen,
        st := if b.detects p thr x then .pulseActive
          else if b.st = .normal ∨ b.rampAt + 1 = b.h then .normal else .windowRaising,
        ramp := if b.detects p thr x ∨ b.st = .normal then b.ramp else b.rampAt + 1 } := by
  rw [NBState.sampled, NBState.machine_eq, NBState.lineAfter_measured]
  rfl

section
variable (p : Params) (thr : Real64) (b : NBState) (x : Cplx)

@[simp] theorem NBState.sampled_w : (b.sampled p thr x).w = b.w := by rw [NBState.sampled_eq]
@[simp] theorem NBState.sampled_h : (b.sampled p thr x).h = b.h := by rw [NBState.sampled_eq]
@[simp] theorem NBState.sampled_idx : (b.sampled p thr x).idx = (b.idx + 1) % b.w := rfl

@[simp] theorem NBState.sampled_seen (h : b.seen ≤ b.w) : (b.sampled p thr x).seen = min b.w (b.seen + 1) := by
  rw [NBState.sampled_eq]
  dsimp only
  split <;> omega

end

/-- A sample reads a value that is not finite: the one it delays out, or one of those a fade weights (R11). -/
def NBState.badRead (b : NBState) (fades : Bool) : Bool :=
  !(b.bufS.getD b.idx .zero).isFinite ||
    (fades && anyNonFinite ((List.range b.h).map fun d => b.bufS.getD (b.back (d + 1)) .zero))

theorem NBState.badRead_eq_false {b : NBState} {fades : Bool} (hy : (b.bufS.getD b.idx .zero).isFinite = true)
    (hf : fades = true → ∀ d, 1 ≤ d → d ≤ b.h → (b.bufS.getD (b.back d) .zero).isFinite = true) :
    b.badRead fades = false := by
  refine Bool.or_eq_false_iff.mpr ⟨by rw [hy]; rfl, ?_⟩
  cases fades with
  | false => rfl
  | true =>
    refine (anyNonFinite_eq_false _).mpr fun z hz => ?_
    obtain ⟨d, hd, rfl⟩ := List.mem_map.mp hz
    exact hf rfl (d + 1) (by omega) (List.mem_range.mp hd)

/-! ### A block (R333) -/

section
variable (p : Params) (thr : Real64) (wrote : List Bool) (b : NBState) (x : List Cplx)

theorem nbLoop_b : (nbLoop p thr wrote b x).b = x.foldl (NBState.sampled p thr) b := by
  induction x generalizing wrote b with
  | nil => rfl
  | cons z x ih => exact ih _ _

/-- One sample of a block: it delays out the oldest, and the block goes on with the blanker it leaves. -/
theorem nbLoop_cons (z : Cplx) :
    ∃ wrote', let q := nbLoop p thr wrote' (b.sampled p thr z) x
      (nbLoop p thr wrote b (z :: x)).out = b.bufS.getD b.idx .zero :: q.out ∧
        (nbLoop p thr wrote b (z :: x)).bad = (b.badRead (b.fades (b.detects p thr z)) || q.bad) :=
  ⟨_, rfl, rfl⟩

/-- The counts of a block, whatever its samples are: the cursor, and the samples seen. -/
theorem nbLoop_counts (hi : b.idx < b.w) (hs : b.seen ≤ b.w) :
    let c := (nbLoop p thr wrote b x).b
    c.idx = (b.idx + x.length) % b.w ∧ c.seen = min b.w (b.seen + x.length) ∧ c.w = b.w ∧ c.h = b.h := by
  rw [nbLoop_b]
  induction x generalizing b with
  | nil => exact ⟨(Nat.mod_eq_of_lt hi).symm, (Nat.min_eq_right hs).symm, rfl, rfl⟩
  | cons z x ih =>
    have hrest := ih (b.sampled p thr z)
    rw [NBState.sampled_idx, NBState.sampled_seen _ _ _ _ hs, NBState.sampled_w, NBState.sampled_h] at hrest
    obtain ⟨hidx, hseen, hw, hh⟩ := hrest (Nat.mod_lt _ (Nat.zero_lt_of_lt hi)) (Nat.min_le_left _ _)
    refine ⟨hidx.trans ?_, hseen.trans ?_, hw, hh⟩
    · rw [Nat.mod_add_mod, List.length_cons, Nat.add_assoc, Nat.add_comm 1]
    · rw [List.length_cons]
      omega

end

/-! ### The pure delay (R334) -/

/-- For `n` samples more the blanker only delays: it is in its normal state, and the detector holds off. -/
structure NBState.Delays (b : NBState) (n : Nat) : Prop where
  normal : b.st = .normal
  unseen : b.seen + n ≤ b.w
  cursor : b.idx < b.w
  line : b.bufS.length = b.w

/-- A place before the cursor's next revolution is another cell than the cursor's. -/
theorem cursor_add_ne {idx w k : Nat} (hi : idx < w) (hk : k + 1 < w) : (idx + (k + 1)) % w ≠ idx := by
  rw [mod_of_lt_two_mul (by omega)]
  split <;> omega

section
variable {p : Params} {thr : Real64} {b : NBState}

/-- A sample in the pure delay takes its place in the line, and the state stays. -/
theorem NBState.Delays.sampled_line {n : Nat} (h : b.Delays (n + 1)) (z : Cplx) :
    (b.sampled p thr z).bufS = b.bufS.set b.idx z ∧ (b.sampled p thr z).st = .normal := by
  obtain ⟨hst, hn, -, -⟩ := h
  rw [NBState.sampled_eq, NBState.detects_of_lt (by omega)]
  simp [NBState.lineAfter, NBState.fades, NBState.stored, hst]

theorem NBState.Delays.sampled {n : Nat} (h : b.Delays (n + 1)) (z : Cplx) : (b.sampled p thr z).Delays n := by
  obtain ⟨hline, hst⟩ := h.sampled_line (p := p) (thr := thr) z
  obtain ⟨-, hn, hi, hl⟩ := h
  refine ⟨hst, ?_, ?_, ?_⟩
  · rw [NBState.sampled_w, NBState.sampled_seen _ _ _ _ (by omega)]
    omega
  · rw [NBState.sampled_w, NBState.sampled_idx]
    exact Nat.mod_lt _ (Nat.zero_lt_of_lt hi)
  · rw [hline, List.length_set, hl, NBState.sampled_w]

/-- A place counted from the cursor a sample leaves. -/
theorem NBState.sampled_place (k : Nat) (z : Cplx) :
    ((b.sampled p thr z).idx + k) % (b.sampled p thr z).w = (b.idx + (k + 1)) % b.w := by
  rw [NBState.sampled_idx, NBState.sampled_w, Nat.mod_add_mod, Nat.add_assoc, Nat.add_comm 1 k]

/-- The line a sample in the pure delay leaves: the sample a revolution on, elsewhere what it was. -/
theorem NBState.Delays.sampled_getD {n k : Nat} (h : b.Delays (n + 1)) (z : Cplx) (hk : k < b.w) :
    (b.sampled p thr z).bufS.getD ((b.idx + (k + 1)) % b.w) .zero =
      if k + 1 = b.w then z else b.bufS.getD ((b.idx + (k + 1)) % b.w) .zero := by
  obtain ⟨hline, -⟩ := h.sampled_line (p := p) (thr := thr) z
  obtain ⟨-, -, hi, hl⟩ := h
  rw [hline, getD_set_of_lt _ _ (hl ▸ hi)]
  by_cases hturn : k + 1 = b.w
  · rw [if_pos hturn, if_pos (by rw [hturn, Nat.add_mod_right, Nat.mod_eq_of_lt hi])]
  · rw [if_neg hturn, if_neg (cursor_add_ne hi (by omega))]

theorem nbLoop_delay_st {wrote : List Bool} {x : List Cplx} (h : b.Delays x.length) :
    (nbLoop p thr wrote b x).b.st = .normal := by
  rw [nbLoop_b]
  induction x generalizing b with
  | nil => exact h.normal
  | cons z x ih => exact ih (h.sampled z)

/-- The line from the cursor on, after a block in the pure delay: the block, then what stood there. -/
theorem nbLoop_delay_line {wrote : List Bool} {x : List Cplx} {k : Nat} (h : b.Delays x.length) (hk : k < b.w) :
    (nbLoop p thr wrote b x).b.bufS.getD ((b.idx + k) % b.w) .zero =
      x.getD k (b.bufS.getD ((b.idx + k) % b.w) .zero) := by
  rw [nbLoop_b]
  induction x generalizing b k with
  | nil => rfl
  | cons z x ih =>
    have hn : b.seen + (x.length + 1) ≤ b.w := h.unseen
    have hrest {j : Nat} (hj : j < b.w) :
        ((z :: x).foldl (NBState.sampled p thr) b).bufS.getD ((b.idx + (j + 1)) % b.w) .zero =
          x.getD j (if j + 1 = b.w then z else b.bufS.getD ((b.idx + (j + 1)) % b.w) .zero) := by
      have := ih (k := j) (h.sampled (p := p) (thr := thr) z) (by rwa [NBState.sampled_w])
      rwa [NBState.sampled_place, h.sampled_getD z hj] at this
    cases k with
    | zero =>
      have hturn : b.w - 1 + 1 = b.w := Nat.sub_add_cancel hk
      have := hrest (Nat.sub_lt hk Nat.one_pos)
      rwa [hturn, Nat.add_mod_right, if_pos rfl, List.getD_eq_getElem?_getD (l := x), List.getElem?_eq_none (by omega)] at this
    | succ k =>
      have := hrest (Nat.lt_of_succ_lt hk)
      rwa [if_neg (Nat.ne_of_lt hk)] at this

/-- The outputs of a block in the pure delay: what the line held, from the cursor on. -/
theorem nbLoop_delay_out {wrote : List Bool} {x : List Cplx} {m : Nat} (h : b.Delays x.length) (hm : m < x.length) :
    (nbLoop p thr wrote b x).out[m]? = some (b.bufS.getD ((b.idx + m) % b.w) .zero) := by
  induction x generalizing wrote b m with
  | nil => exact absurd hm (Nat.not_lt_zero m)
  | cons z x ih =>
    obtain ⟨wrote', hout, -⟩ := nbLoop_cons p thr wrote b x z
    have hn : b.seen + (x.length + 1) ≤ b.w := h.unseen
    rw [List.length_cons] at hm
    rw [hout]
    cases m with
    | zero => rw [Nat.add_zero, Nat.mod_eq_of_lt h.cursor]; rfl
    | succ m =>
      rw [List.getElem?_cons_succ, ih (h.sampled z) (by omega), NBState.sampled_place, h.sampled_getD z (by omega), if_neg (by omega)]

/-- A block in the pure delay reads finite values where the line is finite, and its own samples. -/
theorem nbLoop_delay_bad {wrote : List Bool} {x : List Cplx} (h : b.Delays x.length) (hx : ∀ z ∈ x, z.isFinite = true)
    (hb : ∀ z ∈ b.bufS, z.isFinite = true) : (nbLoop p thr wrote b x).bad = false := by
  induction x generalizing wrote b with
  | nil => rfl
  | cons z x ih =>
    obtain ⟨hz, hx⟩ := List.forall_mem_cons.mp hx
    obtain ⟨wrote', -, hbad⟩ := nbLoop_cons p thr wrote b x z
    obtain ⟨hline, -⟩ := h.sampled_line (p := p) (thr := thr) z
    have hn : b.seen + (x.length + 1) ≤ b.w := h.unseen
    have hrest : ∀ y ∈ (b.sampled p thr z).bufS, y.isFinite = true := fun y hy => by
      rw [hline] at hy
      rcases List.mem_or_eq_of_mem_set hy with hy | rfl
      · exact hb y hy
      · exact hz
    have hread : b.badRead (b.fades (b.detects p thr z)) = false :=
      NBState.badRead_eq_false (isFinite_getD hb _) fun _ d _ _ => isFinite_getD hb _
    rw [hbad, hread, ih (h.sampled z) hx hrest, Bool.or_self]

end

/-! ### What NBRUN leaves -/

/-- The run of NBRUN on its block. -/
def State.nbRun (s : State) (id : Nat) : Run NBState := s.runNb (s.bank id).nb (s.input .cplx)

/-- The state NBRUN leaves. -/
def State.nbDone (s : State) (id : Nat) : State :=
  let r := s.nbRun id
  (s.setBank id { s.bank id with nb := r.commit r.bad }).finishBuf s.opA (emitted s.draws .cplx r.bad r.out) 0

section
variable {s : State} {id : Nat} (hid : id < s.nbanks) (hb : s.BufferOk s.opN)
include hid hb

/-- NBRUN at level 0 asks for no blanker (R336). -/
theorem exec_nbrun_of_off (hoff : s.cr.nbLevel = 0) : exec (.nbrun id) s = .next (s.finish s.a1 0 0) := by
  obtain ⟨hsize, hbounds⟩ := hb
  rw [exec_nbrun, execNbrun, State.checked_pass]
  · simp only [hoff, decide_true, if_true]
  · simp only [extentSame, List.forall_mem_cons, idCheck_ok, State.sizeCheck_ok, State.boundsCheck_ok, boundCheck_ok, hoff]
    exact ⟨hid, hsize, hbounds, rfl, by simp⟩

/-- NBRUN at another level, of a bank that NBINIT has bound. -/
theorem exec_nbrun_of_ready (hon : s.cr.nbLevel ≠ 0) (hv : (s.bank id).nb.valid = true) :
    exec (.nbrun id) s = .next (s.nbDone id) := by
  obtain ⟨hsize, hbounds⟩ := hb
  rw [exec_nbrun, execNbrun, State.checked_pass]
  · simp only [hon, decide_false, Bool.false_eq_true, if_false]
    rfl
  · simp only [extentSame, List.forall_mem_cons, idCheck_ok, State.sizeCheck_ok, State.boundsCheck_ok, boundCheck_ok, hv]
    exact ⟨hid, hsize, hbounds, Bool.or_true _, by simp⟩

end

@[simp] theorem State.nbRun_out_length (s : State) (id : Nat) : (s.nbRun id).out.length = s.opN :=
  (nbLoop_length _ _ _ _ _).trans (s.input_length .cplx)

/-- NBRUN gives one output per sample. -/
theorem State.completed_nbDone (s : State) (id : Nat) : s.Completed (s.nbDone id) s.a1 0 false := by
  have hdone : s.Completed (s.nbDone id) _ 0 false := State.completed_finishBuf s.opA _ false rfl
  rwa [emitted_length, State.nbRun_out_length, State.opN, BitVec.ofNat_toNat, BitVec.setWidth_eq] at hdone

theorem State.nb_nbDone {s : State} {id : Nat} (hid : id < s.nbanks) :
    ((s.nbDone id).bank id).nb = (s.nbRun id).commit (s.nbRun id).bad :=
  congrArg Bank.nb (State.bank_setBank_self { s.bank id with nb := (s.nbRun id).commit (s.nbRun id).bad } hid)

/-- Output `k` of a run on finite values stands in its cell. -/
theorem State.read_nbDone {s : State} {id k : Nat} {z : Cplx} (hwf : s.sm.wf = true) (hbad : (s.nbRun id).bad = false)
    (hz : (s.nbRun id).out[k]? = some z) : (s.nbDone id).sm.read (s.opA + k) = z := by
  refine State.read_finishBuf hwf ?_
  rwa [hbad, emitted_finite]

/-- The counts NBRUN leaves do not depend on its samples, finite or not (R11). -/
theorem State.nbDone_counts {s : State} {id : Nat} (hid : id < s.nbanks) :
    let b := (s.bank id).nb
    let c := ((s.nbDone id).bank id).nb
    b.idx < b.w → b.seen ≤ b.w →
      c.idx = (b.idx + s.opN) % b.w ∧ c.seen = min b.w (b.seen + s.opN) ∧ c.w = b.w ∧ c.h = b.h := by
  intro b c hi hs
  have hrun := nbLoop_counts s.cfg (s.cfg.nbThresh s.cr.nbLevel.toNat) (b.bufS.map fun _ => false) b (s.input .cplx) hi hs
  rw [s.input_length .cplx] at hrun
  have hc : c = (s.nbRun id).commit (s.nbRun id).bad := State.nb_nbDone hid
  rw [hc]
  cases (s.nbRun id).bad <;> exact hrun

/-- Settles O52: at level 0 NBRUN only completes; at another its counts do not depend on the samples, and as long as the detector
holds off the line only delays. -/
theorem blankerRuns : Obligations.BlankerRuns := by
  intro s id hid hb
  constructor
  · intro hoff
    exact ⟨_, exec_nbrun_of_off hid hb hoff, by simp [State.finish, Status.ofTrunc]⟩
  · intro hwf _ hon hv hok b x
    obtain ⟨-, -, hl, -, hi, hs, -, -⟩ := hok hv
    have hx : x.length = s.opN := s.input_length .cplx
    obtain ⟨hidx, hseen, hw, hh⟩ := State.nbDone_counts hid hi hs
    refine ⟨_, exec_nbrun_of_ready hid hb hon hv, s.completed_nbDone id, hidx, hseen, hw, hh, fun hst hn hfin => ?_⟩
    have hd : b.Delays x.length := ⟨hst, hx ▸ hn, hi, hl⟩
    obtain ⟨hfx, hfb⟩ := List.forall_mem_append.mp hfin
    have hbad : (s.nbRun id).bad = false :=
      Bool.or_eq_false_iff.mpr ⟨(anyNonFinite_eq_false x).mpr hfx, nbLoop_delay_bad hd hfx hfb⟩
    have hnb : ((s.nbDone id).bank id).nb = (s.nbRun id).st := by rw [State.nb_nbDone hid, hbad, Run.commit_false]
    rw [hnb]
    refine ⟨nbLoop_delay_st hd, fun m hm => ⟨State.read_nbDone hwf hbad (nbLoop_delay_out hd (hx ▸ hm)), ?_⟩⟩
    have hmx : m < x.length := hx ▸ hm
    refine (nbLoop_delay_line hd (by omega)).trans ?_
    simp only [List.getD_eq_getElem?_getD, List.getElem?_eq_getElem hmx, Option.getD_some]

/-! ### NBRUN on one sample -/

/-- The threshold of a level (R6). -/
theorem nbThresh_toNat (p : Params) (lv : BitVec 2) :
    p.nbThresh lv.toNat = if lv = 1 then p.nbThresh1 else if lv = 2 then p.nbThresh2 else p.nbThresh3 := by
  match lv with
  | 0#2 | 1#2 | 2#2 | 3#2 => rfl

/-- On one sample the run is one sample of the loop. -/
theorem State.nbRun_of_one {s : State} {id : Nat} (hn : s.opN = 1) :
    let b := (s.bank id).nb
    let x := s.sm.read s.opA
    let thr := s.cfg.nbThresh s.cr.nbLevel.toNat
    let r := s.nbRun id
    r.st = b.sampled s.cfg thr x ∧ r.out = [b.bufS.getD b.idx .zero] ∧
      r.bad = (!x.isFinite || b.badRead (b.fades (b.detects s.cfg thr x))) := by
  rw [State.nbRun, State.input_of_one _ hn]
  obtain ⟨wrote', -, hbad⟩ := nbLoop_cons s.cfg (s.cfg.nbThresh s.cr.nbLevel.toNat)
    ((s.bank id).nb.bufS.map fun _ => false) (s.bank id).nb [] (s.sm.read s.opA)
  refine ⟨rfl, rfl, ?_⟩
  dsimp only [State.runNb, cellOf]
  rw [hbad, nbLoop, Bool.or_false]
  simp only [anyNonFinite, List.any_cons, List.any_nil, Bool.or_false]

/-- What NBRUN leaves of one finite sample: its output, and the blanker after the sample. -/
theorem State.nbDone_of_one {s : State} {id : Nat} (hn : s.opN = 1) (hid : id < s.nbanks) (hwf : s.sm.wf = true) :
    let b := (s.bank id).nb
    let x := s.sm.read s.opA
    let thr := s.cfg.nbThresh s.cr.nbLevel.toNat
    x.isFinite = true → b.badRead (b.fades (b.detects s.cfg thr x)) = false →
      s.Completed (s.nbDone id) 1 0 false ∧ (s.nbDone id).sm.read s.opA = b.bufS.getD b.idx .zero ∧
        ((s.nbDone id).bank id).nb = b.sampled s.cfg thr x := by
  intro b x thr hx hread
  obtain ⟨hst, hout, hbad⟩ := State.nbRun_of_one (s := s) (id := id) hn
  have hfinite : (s.nbRun id).bad = false := hbad.trans (Bool.or_eq_false_iff.mpr ⟨by rw [hx]; rfl, hread⟩)
  have ha1 : s.a1 = 1 := BitVec.eq_of_toNat_eq hn
  refine ⟨ha1 ▸ s.completed_nbDone id, State.read_nbDone (k := 0) hwf hfinite (by rw [hout]; rfl), ?_⟩
  rw [State.nb_nbDone hid, hfinite, Run.commit_false, hst]

/-- Settles O53: NBRUN on one finite sample is one sample of its loop, whose line is what the fade leaves, with the sample's own
cell written last. -/
theorem blankerOneSample : Obligations.BlankerOneSample := by
  intro s id hid hwf hb hn _ b x thr mag sum pulsed fades back ramp hon hv hok hx hy hf
  obtain ⟨-, hh, hl, -, hi, hs, -, -⟩ := hok hv
  have hdet : b.detects s.cfg thr x = decide pulsed := b.detects_eq s.cfg thr x
  have hfades : b.fades (decide pulsed) = decide fades := (Bool.decide_and _ _).symm
  have hread : b.badRead (b.fades (b.detects s.cfg thr x)) = false := by
    rw [hdet, hfades]
    exact NBState.badRead_eq_false hy fun h => hf (of_decide_eq_true h)
  have hone := State.nbDone_of_one hn hid hwf hx
  rw [nbThresh_toNat] at hone
  obtain ⟨hdone, hout, hnb⟩ := hone hread
  have hline : (b.sampled s.cfg thr x).bufS = b.lineAfter (decide pulsed) x := by rw [NBState.sampled_eq, hdet]
  refine ⟨_, exec_nbrun_of_ready hid hb hon hv, hdone, hout, ?_⟩
  dsimp only
  rw [hnb, hline]
  refine ⟨?fields, (NBState.lineAfter_length _ _ _).trans hl, ?cursor, fun hfd d h1 hd => ?faded, fun j hj hback => ?kept⟩
  case fields =>
    have hseen : (if b.seen < b.w then b.seen + 1 else b.seen) = min b.w (b.seen + 1) := by split <;> omega
    rw [NBState.sampled_eq, hdet, hseen]
    simp only [decide_eq_true_eq]
    rfl
  case cursor =>
    rw [NBState.lineAfter_cursor (hl ▸ hi)]
    simp only [NBState.stored, decide_eq_true_eq]
    rfl
  case faded =>
    have hne : b.back d ≠ b.idx := NBState.back_ne_idx hi h1 (by omega)
    exact (NBState.lineAfter_of_fades (hfades.trans (decide_eq_true hfd)) hne).trans
      (NBState.fadedLine_back hi hl (by omega) h1 hd)
  case kept =>
    by_cases hfd : fades
    · exact (NBState.lineAfter_of_fades (hfades.trans (decide_eq_true hfd)) hj).trans (NBState.fadedLine_kept (hback hfd))
    · exact NBState.lineAfter_of_not_fades (hfades.trans (decide_eq_false hfd)) hj

end Sys2Proof.Machine
end

section
/-! PROOFS. ANRUN on the sample that completes a hop (spec/46_auto_notch.md R363, R365 to R368): the two candidates are the loudest
bins, the hysteresis and the kernel are as the spec writes them, and the hop's outputs go through the extra delay. -/

namespace Sys2Proof.Machine

/-! ### The loudest bin (R366) -/

/-- The loudest bin in terms of the keys, which order the averages where none is a NaN. -/
theorem loudest_some_iff_key {v : Nat → Real64} {P : Nat → Prop} {k : Nat} (hn : ∀ j, P j → (v j).isNaN = false) :
    Loudest v P (some k) ↔ P k ∧ ∀ j, P j → (v j).key ≤ (v k).key ∧ (j < k → (v j).key < (v k).key) := by
  refine and_congr_right fun hk => forall₂_congr fun j hj => ?_
  simp [Real64.lt, hn k hk, hn j hj]

theorem Loudest.congr {v w : Nat → Real64} {P Q : Nat → Prop} {o : Option Nat} (h : Loudest v P o) (hPQ : ∀ k, P k ↔ Q k)
    (hvw : ∀ k, P k → v k = w k) : Loudest w Q o := by
  obtain rfl : P = Q := funext fun k => propext (hPQ k)
  cases o with
  | none => exact h
  | some k =>
    obtain ⟨hk, hbest⟩ := h
    exact ⟨hk, fun j hj => hvw k hk ▸ hvw j hj ▸ hbest j hj⟩

/-- On averages that are no NaN the fold keeps the loudest bin of an ascending list. -/
theorem loudest_foldl {v : Nat → Real64} {best : Nat} {bins : List Nat} (hs : (best :: bins).Pairwise (· < ·))
    (hn : ∀ k ∈ best :: bins, (v k).isNaN = false) :
    Loudest v (· ∈ best :: bins) (some (bins.foldl (fun b j => if (v b).lt (v j) then j else b) best)) := by
  induction bins generalizing best with
  | nil => exact (loudest_some_iff_key hn).mpr (by simp)
  | cons i bins ih =>
    obtain ⟨hbest, hi⟩ := List.pairwise_cons.mp hs
    obtain ⟨hni, hnj⟩ := List.forall_mem_cons.mp hn
    have hlt : (v best).lt (v i) = true ↔ (v best).key < (v i).key := by
      simp [Real64.lt, hni, hnj i List.mem_cons_self]
    rw [loudest_some_iff_key hn, List.foldl_cons]
    split
    case isTrue h =>
      obtain ⟨hr, hmax⟩ := (loudest_some_iff_key hnj).mp (ih hi hnj)
      refine ⟨List.mem_cons_of_mem _ hr, List.forall_mem_cons.mpr ⟨?_, hmax⟩⟩
      have := (hmax i List.mem_cons_self).1
      have := hlt.mp h
      omega
    case isFalse h =>
      have hsub : best :: bins ⊆ best :: i :: bins := List.cons_subset_cons _ (List.subset_cons_self _ _)
      have hnb : ∀ k ∈ best :: bins, (v k).isNaN = false := fun k hk => hn k (hsub hk)
      obtain ⟨hr, hmax⟩ := (loudest_some_iff_key hnb).mp (ih (hs.sublist (by simp)) hnb)
      obtain ⟨hb, hrest⟩ := List.forall_mem_cons.mp hmax
      refine ⟨hsub hr, List.forall_mem_cons.mpr ⟨hb, List.forall_mem_cons.mpr ⟨?_, hrest⟩⟩⟩
      have := hbest i List.mem_cons_self
      have := mt hlt.mpr h
      omega

/-- `loudest` answers the loudest bin of an ascending list. -/
theorem loudest_spec {avg : List Real64} {bins : List Nat} (hs : bins.Pairwise (· < ·))
    (hn : ∀ k ∈ bins, (avg.getD k .zero).isNaN = false) :
    Loudest (fun k => avg.getD k .zero) (· ∈ bins) (loudest avg bins) := by
  cases bins with
  | nil => exact fun k hk => absurd hk List.not_mem_nil
  | cons k bins => exact loudest_foldl (v := fun k => avg.getD k .zero) hs hn

/-! ### The candidates (R366) -/

/-- A bin the first candidate may be. -/
def BinAllowed (p : Params) (ks : Option Int) (k : Nat) : Prop :=
  1 ≤ k ∧ k < p.anNfft / 2 ∧ ∀ c ∈ ks, (p.anExclTone : Int) < ((k : Int) - c).natAbs

/-- A bin the second candidate may be beside the first. -/
def PeerAllowed (p : Params) (ks : Option Int) (first : Option Nat) (k : Nat) : Prop :=
  BinAllowed p ks k ∧ ∃ q ∈ first, p.anExclPeer < ((k : Int) - (q : Int)).natAbs

theorem binAllowed_iff {p : Params} {ks : Option Int} {k : Nat} :
    binAllowed p ks k = true ↔ ∀ c ∈ ks, (p.anExclTone : Int) < ((k : Int) - c).natAbs := by
  cases ks <;> simp [binAllowed]

theorem mem_searchBins {p : Params} {ks : Option Int} {k : Nat} : k ∈ searchBins p ks ↔ BinAllowed p ks k := by
  simp only [searchBins, BinAllowed, List.mem_filter, List.mem_range, Bool.and_eq_true, decide_eq_true_eq, binAllowed_iff]
  exact and_left_comm

theorem mem_peerBins {p : Params} {ks : Option Int} {first k : Nat} :
    k ∈ peerBins p (searchBins p ks) first ↔ PeerAllowed p ks (some first) k := by
  simp [peerBins, PeerAllowed, mem_searchBins]

theorem searchBins_pairwise (p : Params) (ks : Option Int) : (searchBins p ks).Pairwise (· < ·) :=
  List.pairwise_lt_range.filter _

/-- The candidates are the loudest allowed bin, and the loudest of those away from it. -/
theorem candidates_spec {p : Params} {ks : Option Int} {avg : List Real64}
    (hn : ∀ k, BinAllowed p ks k → (avg.getD k .zero).isNaN = false) :
    Loudest (fun k => avg.getD k .zero) (BinAllowed p ks) (candidates p ks avg).1 ∧
      Loudest (fun k => avg.getD k .zero) (PeerAllowed p ks (candidates p ks avg).1) (candidates p ks avg).2 := by
  have first := (loudest_spec (searchBins_pairwise p ks) fun k hk => hn k (mem_searchBins.mp hk)).congr
    (fun _ => mem_searchBins) fun _ _ => rfl
  rw [candidates]
  cases hc : loudest avg (searchBins p ks) with
  | none =>
    rw [hc] at first
    exact ⟨first, fun k ⟨_, q, hq, _⟩ => Option.not_mem_none q hq⟩
  | some q =>
    rw [hc] at first
    refine ⟨first, (loudest_spec ((searchBins_pairwise p ks).filter _) fun k hk => ?_).congr (fun _ => mem_peerBins)
      fun _ _ => rfl⟩
    exact hn k (mem_peerBins.mp hk).1

/-! ### The transforms and the average (R365) -/

@[simp] theorem Params.fft_length (p : Params) (x : List Cplx) : (p.fft x).length = x.length := by
  unfold Params.fft
  split <;> simp

/-- The average of bin `k` after a hop of the spectrum `x`. -/
def binAverage (p : Params) (avg : List Real64) (x : List Cplx) (k : Nat) : Real64 :=
  (avg.getD k .zero).add (p.anBeta.mul ((p.mag (x.getD k .zero)).sub (avg.getD k .zero)))

theorem mapIdx_eq_map_range {α β : Type} (f : Nat → α → β) (l : List α) (a : α) :
    l.mapIdx f = (List.range l.length).map fun i => f i (l.getD i a) := by
  refine List.ext_getElem (by simp) fun i h _ => ?_
  rw [List.length_mapIdx] at h
  simp [h]

theorem notchAverage_eq (p : Params) (avg : List Real64) (x : List Cplx) :
    notchAverage p avg x = (List.range avg.length).map (binAverage p avg x) :=
  mapIdx_eq_map_range _ avg .zero

/-- The candidates by the averages of the hop, where no allowed bin's is a NaN. -/
theorem candidates_of_average {p : Params} {ks : Option Int} {avg : List Real64} {x : List Cplx}
    (hlen : avg.length = p.anNfft / 2 + 1) (hn : ∀ k, BinAllowed p ks k → (binAverage p avg x k).isNaN = false) :
    let c := candidates p ks (notchAverage p avg x)
    Loudest (binAverage p avg x) (BinAllowed p ks) c.1 ∧ Loudest (binAverage p avg x) (PeerAllowed p ks c.1) c.2 := by
  have hget : ∀ k, BinAllowed p ks k → (notchAverage p avg x).getD k .zero = binAverage p avg x k := by
    rintro k ⟨-, hk, -⟩
    have : k < avg.length := by omega
    simp [notchAverage_eq, this]
  obtain ⟨first, second⟩ := candidates_spec fun k hk => (congrArg Real64.isNaN (hget k hk)).trans (hn k hk)
  exact ⟨first.congr (fun _ => .rfl) hget, second.congr (fun _ => .rfl) fun k hk => hget k hk.1⟩

/-! ### Hysteresis (R367) -/

/-- A slot whose kernel is rebuilt for the target its update accepts. -/
theorem NotchSlot.update_builtFor (p : Params) (cand : Option Nat) (x : NotchSlot) :
    { x.update p cand with builtFor := (x.update p cand).tgt } = x.tracked p cand := by
  cases cand <;> simp [NotchSlot.update, NotchSlot.tracked, slotStable]

theorem NotchSlot.tracked_tgt (p : Params) (cand : Option Nat) (x : NotchSlot) :
    (x.tracked p cand).tgt = (x.update p cand).tgt := by
  rw [← NotchSlot.update_builtFor]

/-! ### The kernel (R368) -/

/-- The mirror image of a bin's mirror image is the bin. -/
theorem mirror_mirror {m k : Nat} (hk : k < m) : (m - (m - k) % m) % m = k := by
  rcases Nat.eq_zero_or_pos k with rfl | h
  · simp
  · rw [Nat.mod_eq_of_lt (by omega : m - k < m), Nat.sub_sub_self hk.le, Nat.mod_eq_of_lt hk]

/-- Bin `k` is within the half-width of the target, or the mirror image of a bin `j` that is (R368). -/
def inNotch (p : Params) (t : Option Nat) (k : Nat) : Bool :=
  t.any fun q => (List.range (p.anNfft / 2 + 1)).any fun j =>
    decide (((j : Int) - (q : Int)).natAbs ≤ p.anHalfwidth ∧ (k = j ∨ k = (p.anNfft - j) % p.anNfft))

theorem binZeroed_eq_inNotch {p : Params} {k : Nat} (t : Option Nat) (hk : k < p.anNfft) :
    binZeroed p t k = inNotch p t k := by
  cases t with
  | none => rfl
  | some q =>
    rw [Bool.eq_iff_iff]
    change _ ↔ List.any _ _ = true
    simp only [binZeroed, Bool.or_eq_true, List.any_eq_true, List.mem_range, decide_eq_true_eq]
    constructor
    · rintro (⟨hnear, hj⟩ | ⟨hnear, hj⟩)
      · exact ⟨k, by omega, hnear, .inl rfl⟩
      · exact ⟨_, by omega, hnear, .inr (mirror_mirror hk).symm⟩
    · rintro ⟨j, hj, hnear, rfl | rfl⟩
      · exact .inl ⟨hnear, by omega⟩
      · rw [mirror_mirror (by omega : j < p.anNfft)]
        exact .inr ⟨hnear, by omega⟩

theorem notchResponse_eq (p : Params) (t0 t1 : Option Nat) :
    notchResponse p t0 t1 =
      (List.range p.anNfft).map fun k => if inNotch p t0 k || inNotch p t1 k then .zero else .ofReal .one :=
  List.map_congr_left fun k hk => by
    rw [binZeroed_eq_inNotch t0 (List.mem_range.mp hk), binZeroed_eq_inNotch t1 (List.mem_range.mp hk)]

theorem notchTaps_getD (p : Params) (t0 t1 : Option Nat) (n : Nat) :
    (notchTaps p t0 t1).getD n .zero =
      if n < p.anKg then
        ((p.ifft (notchResponse p t0 t1)).getD ((n + p.anNfft - (p.anKg - 1) / 2) % p.anNfft) .zero).re.mul (hanning p n)
      else .zero := by
  by_cases hn : n < p.anKg <;> simp [notchTaps, hn]

/-- The model's kernel is the one the spec writes. -/
theorem buildKernel_eq_notchKernel (p : Params) (t0 t1 : Option Nat) : buildKernel p t0 t1 = notchKernel p t0 t1 := by
  simp only [buildKernel, notchTaps_getD, notchResponse_eq]
  rfl

/-- The kernel after a hop is built for the targets it shows, whether or not it had to be rebuilt. -/
theorem NotchState.rebuilt_eq (p : Params) (t : NotchState) :
    t.rebuilt p = { t with
      kernel := if t.slot0.tgt = t.slot0.builtFor ∧ t.slot1.tgt = t.slot1.builtFor then t.kernel
        else buildKernel p t.slot0.tgt t.slot1.tgt
      slot0 := { t.slot0 with builtFor := t.slot0.tgt }, slot1 := { t.slot1 with builtFor := t.slot1.tgt } } := by
  by_cases h : t.slot0.tgt = t.slot0.builtFor ∧ t.slot1.tgt = t.slot1.builtFor
  · have hfresh : t.staleKernel = false := by simp [NotchState.staleKernel, h]
    rw [NotchState.rebuilt, hfresh, if_pos h, h.1, h.2]
    rfl
  · have hstale : t.staleKernel = true := by rw [NotchState.staleKernel, decide_eq_true_eq]; tauto
    rw [NotchState.rebuilt, hstale, if_neg h]
    rfl

/-! ### A completed hop (R363) -/

/-- The extra delay is a first-in first-out line: its entries first, then the samples. -/
theorem delayLine_eq (dly v : List Real64) :
    delayLine dly v = ((dly ++ v).drop v.length, (dly ++ v).take v.length) := by
  induction v generalizing dly with
  | nil => cases dly <;> simp [delayLine]
  | cons a v ih => cases dly <;> simp [delayLine, ih]

section
variable (p : Params) (ks : Option Int) (t : NotchState)

/-- The spectrum of the block. -/
def NotchState.hopSpectrum : List Cplx := p.fft (t.blk.map Cplx.ofReal)

/-- The candidates the hop's averages give. -/
def NotchState.hopCandidates : Option Nat × Option Nat := candidates p ks (notchAverage p t.avg (t.hopSpectrum p))

/-- The kernel the hop applies: the cached one, or one built for the targets the slots accept in this hop. -/
def NotchState.hopKernel : List Cplx :=
  let t0 := (t.slot0.tracked p (t.hopCandidates p ks).1).tgt
  let t1 := (t.slot1.tracked p (t.hopCandidates p ks).2).tgt
  if t0 = t.slot0.builtFor ∧ t1 = t.slot1.builtFor then t.kernel else notchKernel p t0 t1

/-- The delay line followed by the samples that enter it. -/
def NotchState.hopLine : List Real64 := t.dly ++ hopOutput p (t.hopSpectrum p) (t.hopKernel p ks)

@[simp] theorem hopOutput_length (x g : List Cplx) : (hopOutput p x g).length = p.anB := by simp [hopOutput]

/-- What a hop leaves and gives: the slots tracked, the kernel for their targets, the slide, the delay. -/
theorem NotchState.hop_eq :
    t.hop p ks =
      ({ t with
          blk := slide p t.blk, fill := 0, avg := notchAverage p t.avg (t.hopSpectrum p)
          slot0 := t.slot0.tracked p (t.hopCandidates p ks).1, slot1 := t.slot1.tracked p (t.hopCandidates p ks).2
          kernel := t.hopKernel p ks, dly := (t.hopLine p ks).drop p.anB },
        (t.hopLine p ks).take p.anB) := by
  have hu : (t.analysed p ks (p.fft (t.blk.map Cplx.ofReal))).rebuilt p =
      { t with
        avg := notchAverage p t.avg (t.hopSpectrum p)
        slot0 := t.slot0.tracked p (t.hopCandidates p ks).1, slot1 := t.slot1.tracked p (t.hopCandidates p ks).2
        kernel := t.hopKernel p ks } := by
    rw [NotchState.rebuilt_eq, buildKernel_eq_notchKernel]
    simp only [NotchState.analysed, NotchSlot.update_builtFor, NotchState.hopKernel, NotchSlot.tracked_tgt]
    rfl
  simp only [NotchState.hop, hu, delayLine_eq, hopOutput_length]
  rfl

end

theorem slide_eq (p : Params) (blk : List Real64) :
    slide p blk = (List.range blk.length).map fun i =>
      blk.getD (if i < p.anNfft - p.anB then i + p.anB else i) .zero := by
  rw [slide, mapIdx_eq_map_range _ _ .zero]
  refine List.map_congr_left fun i _ => ?_
  split <;> rfl

/-- The line in the terms of the spec, for a block of `AN_NFFT` samples. -/
theorem NotchState.hopLine_eq {p : Params} {t : NotchState} (ks : Option Int) (h : t.blk.length = p.anNfft) :
    t.hopLine p ks = t.dly ++ (List.range p.anB).map fun i =>
      ((p.ifft ((List.range p.anNfft).map fun k =>
        ((t.hopSpectrum p).getD k .zero).mul ((t.hopKernel p ks).getD k .zero))).getD (p.anNfft - p.anB + i) .zero).re := by
  have hlen : (t.hopSpectrum p).length = p.anNfft := by simp [NotchState.hopSpectrum, h]
  rw [NotchState.hopLine, hopOutput, mapIdx_eq_map_range _ _ .zero, hlen]

theorem NotchState.hopLine_length (p : Params) (ks : Option Int) (t : NotchState) : p.anB ≤ (t.hopLine p ks).length := by
  simp [NotchState.hopLine]

/-- A hop whose block, kernel and the delayed samples it gives are finite reads nothing else. -/
theorem NotchState.hopBad_eq_false {p : Params} {ks : Option Int} {t : NotchState} (hblk : ∀ w ∈ t.blk, w.isFinite = true)
    (hkernel : ∀ z ∈ t.hopKernel p ks, z.isFinite = true)
    (hline : t.dly ≠ [] → ∀ i < p.anB, ((t.hopLine p ks).getD i .zero).isFinite = true) : t.hopBad p ks = false := by
  have hout : (!t.dly.isEmpty && anyNonFiniteReal ((t.hopLine p ks).take p.anB)) = false := by
    by_cases hd : t.dly = []
    · simp [hd]
    · have hfin : ∀ v ∈ (t.hopLine p ks).take p.anB, v.isFinite = true := by
        intro v hv
        obtain ⟨i, hi, rfl⟩ := List.mem_take_iff_getElem.mp hv
        have := hline hd i (by omega)
        rwa [List.getD_eq_getElem] at this
      rw [(anyNonFiniteReal_eq_false _).mpr hfin, Bool.and_false]
  simp only [NotchState.hopBad, NotchState.hop_eq, (anyNonFiniteReal_eq_false _).mpr hblk, hout,
    (anyNonFinite_eq_false _).mpr hkernel, Bool.or_self]

/-! ### What ANRUN leaves -/

theorem exec_anrun (id : Nat) (s : State) : exec (.anrun id) s = execAnrun id s := rfl

/-- The run of ANRUN on its block. -/
def State.anRun (s : State) : Run NotchState := s.runNotch (s.bank 0).notch (s.input .real)

/-- The notch ANRUN commits. -/
def State.anNotch (s : State) : NotchState := s.anRun.commit s.anRun.bad

/-- The state ANRUN leaves. -/
def State.anrunDone (s : State) : State :=
  { s.setBank 0 { s.bank 0 with notch := s.anNotch } with cr := s.cr.showNotch s.anNotch }.finishBuf s.opA
    (emitted s.draws .real s.anRun.bad s.anRun.out) (bit s.anRun.trunc)

section
variable {s : State}

/-- ANRUN of a notch in use, on a buffer with room for its outputs. -/
theorem exec_anrun_of_ready (hid : 0 < s.nbanks) (hb : s.BufferOk (min (s.opN + s.cfg.anB - 1) s.cfg.maxBlock))
    (hv : (s.bank 0).notch.valid = true) : exec (.anrun 0) s = .next s.anrunDone := by
  obtain ⟨hsize, hbounds⟩ := hb
  rw [exec_anrun, execAnrun, State.checked_pass]
  · rfl
  · simp only [List.forall_mem_cons, idCheck_ok, State.sizeCheck_ok, State.boundsCheck_ok, boundCheck_ok]
    exact ⟨hid, hsize, hbounds, rfl, hv, by simp⟩

theorem State.completed_anrunDone :
    s.Completed s.anrunDone (BitVec.ofNat 64 s.anRun.out.length) 0 s.anRun.trunc := by
  cases ht : s.anRun.trunc <;> simp [State.Completed, State.anrunDone, CtrlRegs.showNotch, Status.ofTrunc, bit, ht]

theorem State.notch_anrunDone (hid : 0 < s.nbanks) : (s.anrunDone.bank 0).notch = s.anNotch :=
  congrArg Bank.notch (State.bank_setBank_self { s.bank 0 with notch := s.anNotch } hid)

/-- Values that are not finite leave the slots and the fill level as the rules compute them (R11). -/
theorem State.anNotch_slots :
    s.anNotch.slot0 = s.anRun.st.slot0 ∧ s.anNotch.slot1 = s.anRun.st.slot1 ∧ s.anNotch.fill = s.anRun.st.fill := by
  rw [State.anNotch]
  cases s.anRun.bad <;> exact ⟨rfl, rfl, rfl⟩

/-- Output `k` of a run on finite values stands in its cell. -/
theorem State.read_anrunDone {k : Nat} {z : Cplx} (hwf : s.sm.wf = true) (hbad : s.anRun.bad = false)
    (hz : s.anRun.out[k]? = some z) : s.anrunDone.sm.read (s.opA + k) = cellOf .real z := by
  refine State.read_finishBuf hwf ?_
  rw [hbad, emitted_finite, outputAs_getElem?, hz]
  rfl

end

/-! ### ANRUN on the sample that completes a hop -/

/-- The notch of bank 0 with the block it transforms: the sample that completes the hop is its last. -/
def State.fullNotch (s : State) : NotchState :=
  { (s.bank 0).notch with
    blk := (s.bank 0).notch.blk.set (s.cfg.anNfft - 1) (s.sm.read s.opA).re, fill := s.cfg.anB }

theorem State.collect_of_last {s : State} (hfill : (s.bank 0).notch.fill + 1 = s.cfg.anB) (hB : s.cfg.anB < s.cfg.anNfft) :
    (s.bank 0).notch.collect s.cfg (s.sm.read s.opA).re = s.fullNotch := by
  rw [NotchState.collect, hfill, show s.cfg.anNfft - s.cfg.anB + (s.bank 0).notch.fill = s.cfg.anNfft - 1 by omega]
  rfl

theorem notchLoop_of_last {p : Params} {ks : Option Int} {room : Nat} {t : NotchState} (z : Cplx)
    (hfill : t.fill + 1 = p.anB) (hroom : p.anB ≤ room) :
    let full := t.collect p z.re
    notchLoop p ks room t [z] = ⟨(full.hop p ks).1, (full.hop p ks).2.map Cplx.ofReal, full.hopBad p ks, false, 1, 1,
      (full.analysed p ks (p.fft (full.blk.map Cplx.ofReal))).staleKernel⟩ := by
  have hcut : ¬(t.fill + 1 = p.anB ∧ room < p.anB) := by omega
  have hfull : (t.collect p z.re).fill = p.anB := hfill
  simp only [notchLoop, if_neg hcut, if_pos hfull, List.append_nil, Bool.or_false]

/-- The bin of the sidetone where the floor exists (R366). -/
theorem sidetoneBin_of_floor {p : Params} {ser : Nat} {freq fs : Real64} {ks : Option Int}
    (h : if freq.abs.eqv .zero then ks = none
      else ks.isSome = true ∧ ks = ((freq.abs.mul (.ofNat p.anNfft)).div fs).roundHalfUp?) :
    sidetoneBin p ser freq fs = ks := by
  rw [sidetoneBin]
  split at h
  case isTrue hz => rw [if_pos hz, h]
  case isFalse hz =>
    obtain ⟨c, rfl⟩ := Option.isSome_iff_exists.mp h.1
    rw [if_neg hz, ← h.2, Option.getD_some]

/-- On that sample the run is one hop. -/
theorem State.anRun_of_last {s : State} {ks : Option Int} (hn : s.opN = 1) (hfill : (s.bank 0).notch.fill + 1 = s.cfg.anB)
    (hB : s.cfg.anB < s.cfg.anNfft) (hmax : s.cfg.anB ≤ s.cfg.maxBlock)
    (hks : sidetoneBin s.cfg s.draws s.cr.sidetoneFreq (s.bank 0).notch.fs = ks) :
    let h := s.fullNotch.hop s.cfg ks
    s.anRun.st = h.1 ∧ s.anRun.out = h.2.map Cplx.ofReal ∧ s.anRun.trunc = false ∧
      ((s.sm.read s.opA).re.isFinite = true → s.cr.sidetoneFreq.isFinite = true →
        s.fullNotch.hopBad s.cfg ks = false → s.anRun.bad = false) := by
  have hloop := notchLoop_of_last (ks := ks) (cellOf .real (s.sm.read s.opA)) hfill hmax
  have hcollect : (s.bank 0).notch.collect s.cfg (cellOf .real (s.sm.read s.opA)).re = s.fullNotch :=
    State.collect_of_last hfill hB
  rw [hcollect] at hloop
  rw [State.anRun, State.input_of_one _ hn, State.runNotch, hks, hloop]
  refine ⟨rfl, rfl, rfl, fun hx hfreq hhop => ?_⟩
  have hin : anyNonFinite [cellOf .real (s.sm.read s.opA)] = false :=
    anyNonFinite_eq_false_of_real (List.forall_mem_singleton.mpr rfl) (List.forall_mem_singleton.mpr hx)
  rw [hin, hfreq, hhop]
  rfl

section
variable {s : State} {ks : Option Int} (hn : s.opN = 1) (hfill : (s.bank 0).notch.fill + 1 = s.cfg.anB)
  (hB : s.cfg.anB < s.cfg.anNfft) (hmax : s.cfg.anB ≤ s.cfg.maxBlock)
  (hks : sidetoneBin s.cfg s.draws s.cr.sidetoneFreq (s.bank 0).notch.fs = ks)
include hn hfill hB hmax hks

/-- What ANRUN completes with, and its slots, whatever the block holds. -/
theorem State.anrunDone_of_last :
    let full := s.fullNotch
    let c := full.hopCandidates s.cfg ks
    s.Completed s.anrunDone (BitVec.ofNat 64 s.cfg.anB) 0 false ∧
      s.anNotch.slot0 = full.slot0.tracked s.cfg c.1 ∧ s.anNotch.slot1 = full.slot1.tracked s.cfg c.2 ∧
      s.anNotch.fill = 0 := by
  obtain ⟨hst, hout, htrunc, -⟩ := State.anRun_of_last hn hfill hB hmax hks
  obtain ⟨h0, h1, hf⟩ := s.anNotch_slots
  have hdone := s.completed_anrunDone
  rw [hout, List.length_map, NotchState.hop_length, htrunc] at hdone
  rw [h0, h1, hf, hst, NotchState.hop_eq]
  exact ⟨hdone, rfl, rfl, rfl⟩

/-- What ANRUN leaves where it reads finite values only: the notch after the hop, and the outputs in their cells. -/
theorem State.anrunDone_of_last_finite (hwf : s.sm.wf = true) (hlen : (s.bank 0).notch.blk.length = s.cfg.anNfft)
    (hside : s.cr.sidetoneFreq.isFinite = true) :
    (∀ w ∈ s.fullNotch.blk, w.isFinite = true) → (∀ z ∈ s.fullNotch.hopKernel s.cfg ks, z.isFinite = true) →
      (s.fullNotch.dly ≠ [] → ∀ i < s.cfg.anB, ((s.fullNotch.hopLine s.cfg ks).getD i .zero).isFinite = true) →
      s.anNotch = (s.fullNotch.hop s.cfg ks).1 ∧
        ∀ i < s.cfg.anB, s.anrunDone.sm.read (s.opA + i) = .ofReal ((s.fullNotch.hopLine s.cfg ks).getD i .zero) := by
  intro hblk hkernel hline
  obtain ⟨hst, hout, -, hbad⟩ := State.anRun_of_last hn hfill hB hmax hks
  have hx : (s.sm.read s.opA).re ∈ s.fullNotch.blk := List.mem_set (by omega) _
  have hfinite := hbad (hblk _ hx) hside (NotchState.hopBad_eq_false hblk hkernel hline)
  constructor
  · rw [State.anNotch, hfinite, Run.commit_false, hst]
  · intro i hi
    have hi' : i < (s.fullNotch.hopLine s.cfg ks).length := hi.trans_le (s.fullNotch.hopLine_length s.cfg ks)
    have hz : s.anRun.out[i]? = some (.ofReal ((s.fullNotch.hopLine s.cfg ks).getD i .zero)) := by
      rw [hout, NotchState.hop_eq]
      simp [hi, hi']
    exact State.read_anrunDone hwf hfinite hz

end

/-- What the notch parameters of a well-formed configuration leave room for (R362). -/
theorem State.anB_lt_anNfft {s : State} (h : s.configOk = true) : s.cfg.anB < s.cfg.anNfft := by
  simp only [State.configOk, Params.ok, Params.notchOk, Bool.and_eq_true, decide_eq_true_eq] at h
  omega

/-- Settles O55: the sample fills the block, so ANRUN is one hop, and the hop is what its parts are. -/
theorem notchHop : Obligations.NotchHop := by
  intro s ks hid hcfg hwf hn hb hmax hside p g m f x blk spectrum avg allowed hv hok hfill hks hnan
  obtain ⟨hblk, -, havg, -, -, -, -⟩ := hok hv
  have hB : p.anB < m := State.anB_lt_anNfft hcfg
  have hbin := sidetoneBin_of_floor (ser := s.draws) hks
  obtain ⟨h0, h1⟩ := candidates_of_average (x := spectrum) havg hnan
  obtain ⟨hdone, hs0, hs1, hzero⟩ := State.anrunDone_of_last hn hfill hB hmax hbin
  have hfinite := State.anrunDone_of_last_finite hn hfill hB hmax hbin hwf hblk hside
  have hlen : s.fullNotch.blk.length = s.cfg.anNfft := (List.length_set ..).trans hblk
  have hbuf : s.BufferOk (min (s.opN + s.cfg.anB - 1) s.cfg.maxBlock) := ⟨hb.1, by have := hb.2; omega⟩
  refine ⟨s.anrunDone, _, _, h0, h1, exec_anrun_of_ready hid hbuf hv, hdone, ?_⟩
  dsimp only
  rw [State.notch_anrunDone hid, hs0, hs1]
  refine ⟨rfl, rfl, hzero, congrArg (fun u : NotchSlot => notchBin u.tgt) hs0,
    congrArg (fun u : NotchSlot => notchBin u.tgt) hs1, ?_⟩
  rw [NotchState.hop_eq, NotchState.hopLine_eq ks hlen, slide_eq, notchAverage_eq, hlen] at hfinite
  rw [show s.fullNotch.avg.length = _ from havg] at hfinite
  exact hfinite

end Sys2Proof.Machine
end

section
/-! PROOFS. The host's actions on registers (spec/10_state.md R21, R22, R40, R58; spec/60_exceptions.md R460), and the commands NOP and
BKFREE (spec/47_orchestrator.md R420, R421). -/

namespace Sys2Proof.Machine

/-! ### Argument registers (R21) -/

theorem State.readA_writeA_self (s : State) (i : Fin 4) (w : Word64) : (s.writeA i w).readA i = w := by
  fin_cases i <;> rfl

theorem State.readA_writeA_ne (s : State) {i j : Fin 4} (w : Word64) (h : j ≠ i) : (s.writeA i w).readA j = s.readA j := by
  fin_cases i <;> fin_cases j <;> simp_all [State.writeA, State.readA]

/-- Writing an argument register changes no field but the four of them. -/
theorem State.writeA_eq (s : State) (i : Fin 4) (w : Word64) :
    s.writeA i w = { s with
      a0 := (s.writeA i w).a0, a1 := (s.writeA i w).a1, a2 := (s.writeA i w).a2, a3 := (s.writeA i w).a3 } := by
  fin_cases i <;> rfl

/-! ### Control registers (R40, R55, R58) -/

/-- A per-bank register keeps its value when another one is written. -/
theorem BankRegs.read_write_ne (r : BankRegs) {k j : Nat} (w : Word64) (h : j ≠ k) : (r.write k w).read j = r.read j := by
  unfold BankRegs.write
  split <;> (unfold BankRegs.read; split) <;> try rfl
  all_goals exact absurd rfl h

/-- A global register keeps its value when another one is written. -/
theorem CtrlRegs.read_write_ne (c : CtrlRegs) {n m : Nat} (w : Word64) (h : m ≠ n) : (c.write n w).read m = c.read m := by
  unfold CtrlRegs.write
  split <;> (unfold CtrlRegs.read; split) <;> try rfl
  all_goals exact absurd rfl h

/-- The number of a per-bank register names its bank and its place there. -/
theorem crHome_eq_perBank {nbanks n b k : Nat} (h : crHome nbanks n = .perBank b k) : n = 0x100 + 8 * b + k ∧ b < nbanks := by
  unfold crHome at h
  split at h
  · cases h
    omega
  · split at h <;> cases h

/-- Writing a control register changes the global registers or the per-bank ones, and no bank. -/
theorem State.writeCR_bank (s : State) (n : Nat) (w : Word64) (b : Nat) : (s.writeCR n w).bank b = s.bank b := by
  unfold State.writeCR
  split
  · rename_i c k hn
    by_cases hb : b = c
    · subst hb
      have hlt : b < s.chans.length := (crHome_eq_perBank hn).2
      simp [State.bank, State.chan, hlt]
    · simp [State.bank, State.chan, Ne.symm hb]
  · rfl
  · rfl

theorem State.writeCR_eq (s : State) (n : Nat) (w : Word64) :
    s.writeCR n w = { s with cr := (s.writeCR n w).cr, chans := (s.writeCR n w).chans } := by
  unfold State.writeCR
  split <;> rfl

@[simp] theorem State.writeCR_nbanks (s : State) (n : Nat) (w : Word64) : (s.writeCR n w).nbanks = s.nbanks := by
  unfold State.writeCR
  split <;> simp [State.nbanks]

/-- What the host reads from a per-bank register after a write. -/
theorem State.bankRegs_writeCR {s : State} {n b k : Nat} (w : Word64) (h : crHome s.nbanks n = .perBank b k) (c : Nat) :
    (s.writeCR n w).bankRegs c = if c = b then (s.bankRegs b).write k w else s.bankRegs c := by
  have hb : b < s.chans.length := (crHome_eq_perBank h).2
  simp only [State.writeCR, h, State.bankRegs, State.chan]
  split
  · simp [*]
  · rename_i hc
    simp [Ne.symm hc]

/-- Every other control register keeps its value (R40). -/
theorem State.readCR_writeCR_ne (s : State) {n m : Nat} (w : Word64) (h : m ≠ n) : (s.writeCR n w).readCR m = s.readCR m := by
  unfold State.readCR
  rw [State.writeCR_nbanks]
  cases hm : crHome s.nbanks m with
  | perBank b k =>
    dsimp only
    cases hn : crHome s.nbanks n with
    | perBank c j =>
      rw [State.bankRegs_writeCR w hn]
      split
      · rename_i hbc
        subst hbc
        obtain ⟨rfl, -⟩ := crHome_eq_perBank hm
        obtain ⟨rfl, -⟩ := crHome_eq_perBank hn
        exact BankRegs.read_write_ne _ w (by omega)
      · rfl
    | achRate c => simp [State.writeCR, hn]
    | global => simp [State.writeCR, hn, State.bankRegs, State.chan]
  | achRate b =>
    dsimp only
    cases hn : crHome s.nbanks n with
    | perBank c j =>
      have hc : c < s.chans.length := (crHome_eq_perBank hn).2
      by_cases hbc : b = c
      · subst hbc
        simp [State.writeCR, hn, State.chan, hc]
      · simp [State.writeCR, hn, State.chan, Ne.symm hbc]
    | achRate c => simp [State.writeCR, hn]
    | global => simp [State.writeCR, hn, State.chan]
  | global =>
    dsimp only
    cases hn : crHome s.nbanks n with
    | perBank c j => simp [State.writeCR, hn]
    | achRate c => simp [State.writeCR, hn]
    | global =>
      simp only [State.writeCR, hn]
      exact CtrlRegs.read_write_ne _ w h

/-- Settles O5: an action's step is its definition, and a write leaves the other registers as they read. -/
theorem registerActions : Obligations.RegisterActions := by
  intro s rest w
  have hstep : ∀ a, s.host = a :: rest → step s = State.act { s with host := rest } a := fun a h => by simp only [step, h]
  refine ⟨fun h => by simp only [step, h], fun i h => ?_, fun i h => ?_, fun n h => hstep _ h, fun n h => ?_⟩
  · exact ⟨_, hstep _ h, State.readA_writeA_self _ i w, fun j hj => State.readA_writeA_ne _ w hj, State.writeA_eq _ i w⟩
  · rw [hstep _ h]
    fin_cases i <;> rfl
  · exact ⟨_, hstep _ h, rfl, State.writeCR_eq _ n w, State.writeCR_bank _ n w, fun m hm => State.readCR_writeCR_ne _ w hm⟩

/-! ### NOP and BKFREE (R420, R421) -/

theorem exec_nop (id : Nat) (s : State) : exec (.nop id) s = .next s.finishInit := rfl
theorem exec_bkfree (id : Nat) (s : State) : exec (.bkfree id) s = execBkfree id s := rfl

/-- A word without flag bits carries its opcode and its `ID` (R120). -/
theorem decode_of_opcode {i : Instr} {n : Nat} (hf : i.flag = false) (hn : n = i.opcode * 2 ^ 24 + i.id) (hid : i.id < 65536) :
    decode (BitVec.ofNat 32 n) = some i := by
  have hw : encode i = BitVec.ofNat 32 n := by simp [encode, hf, hn]
  exact hw ▸ decodeOfEncode i (decide_eq_true hid)

/-- The state BKFREE leaves. -/
def State.bkfreeDone (s : State) (id : Nat) : State :=
  { (s.setBank id {}).setAchRate id .zero with cr := s.cr.freeNotch id }.finishInit

theorem exec_bkfree_of_lt {s : State} {id : Nat} (hid : id < s.nbanks) : exec (.bkfree id) s = .next (s.bkfreeDone id) := by
  rw [exec_bkfree, execBkfree, State.checked_pass]
  · rfl
  · simpa using (idCheck_ok id s.nbanks).mpr hid

theorem State.chan_bkfreeDone_self {s : State} {id : Nat} (hid : id < s.nbanks) :
    (s.bkfreeDone id).chan id = { bank := {}, cr := s.bankRegs id, achRate := .zero } := by
  change ((s.setBank id {}).setAchRate id .zero).chan id = _
  rw [State.chan_setAchRate_self _ _ _ (by simpa using hid), State.chan_setBank_self s id {} hid]
  rfl

theorem State.chan_bkfreeDone_ne {s : State} {id j : Nat} (h : j ≠ id) : (s.bkfreeDone id).chan j = s.chan j :=
  (State.chan_setAchRate_ne (s.setBank id {}) id j .zero h).trans (State.chan_setBank_ne s id j {} h)

/-- Of the control registers BKFREE changes `STATUS`, and the notch bins when the bank is the primary one. -/
theorem State.bkfreeDone_cr (s : State) (id : Nat) : (s.bkfreeDone id).cr = { s.cr with
    status := { code := 0, trunc := false }
    notchBin0 := if id = 0 then 0xFFFFFFFF else s.cr.notchBin0
    notchBin1 := if id = 0 then 0xFFFFFFFF else s.cr.notchBin1 } := by
  by_cases h : id = 0 <;> simp [State.bkfreeDone, CtrlRegs.freeNotch, Status.ofTrunc, h]

/-- The words of NOP (R420). -/
theorem decode_nop {id : Nat} (hid : id < 65536) : decode (BitVec.ofNat 32 id) = some (.nop id) :=
  decode_of_opcode rfl (by simp only [Instr.opcode, Instr.id, Nat.zero_mul, Nat.zero_add]) hid

/-- The words of BKFREE (R421). -/
theorem decode_bkfree {id : Nat} (hid : id < 65536) : decode (BitVec.ofNat 32 (0xF0000000 + id)) = some (.bkfree id) :=
  decode_of_opcode rfl (by simp only [Instr.opcode, Instr.id]; omega) hid

/-- Settles O60: the words have the commands' fields, and each command leaves the state written out above. -/
theorem housekeepingCommands : Obligations.HousekeepingCommands := by
  refine ⟨fun id hid => ⟨decode_nop hid, decode_bkfree hid⟩, fun s id => ⟨?_, fun hid => ?_, fun hid => ?_⟩⟩
  · exact ⟨_, exec_nop id s, by simp [State.finishInit, State.finish, Status.ofTrunc]⟩
  · exact (begins_idCheck (.bkfree id) s rfl).raises .param (by simp [firstFail, idCheck, Instr.id, Nat.not_lt.mpr hid])
  · have hchan := State.chan_bkfreeDone_self hid
    have hbank : (s.bkfreeDone id).bank id = {} := congrArg Channel.bank hchan
    have hregs : (s.bkfreeDone id).bankRegs id = s.bankRegs id := by rw [State.bankRegs, hchan]
    refine ⟨_, exec_bkfree_of_lt hid, ?_, hbank, hregs, congrArg Channel.achRate hchan, ?_,
      fun j hj => State.chan_bkfreeDone_ne hj⟩
    · rw [← State.bkfreeDone_cr]
      rfl
    · exact (State.setAchRate_nbanks _ id .zero).trans (s.setBank_nbanks id {})

end Sys2Proof.Machine
end

section
/-! PROOFS. How a command ends (spec/60_exceptions.md R441, R443 to R446, R448): its checks, the oracle and its effect each answer a next
state that is a completion or an error's record. -/

namespace Sys2Proof.Machine

/-! ### The two ends of a command -/

/-- A command completes: a next state with code 0 and no error counted. -/
def State.CompletesIn (s : State) (r : Res) : Prop :=
  ∃ t, r = .next t ∧ t.cr.status.code = 0 ∧ t.cr.errCnt = s.cr.errCnt

/-- A command ends: it completes, or leaves exactly an error's record, for `E_ALLOC` with the oracle consulted. -/
def State.EndsIn (s : State) (r : Res) : Prop :=
  ∃ t, r = .next t ∧
    ((t.cr.status.code = 0 ∧ t.cr.errCnt = s.cr.errCnt) ∨
      ∃ (code : BitVec 8) (info : Word64),
        1 ≤ code.toNat ∧ code.toNat ≤ 10 ∧
        (State.Raised s t code info ∨ (code = 2 ∧ info = 0 ∧ State.Raised s.consulted t code info)))

theorem Err.code_range (e : Err) : 1 ≤ e.code.toNat ∧ e.code.toNat ≤ 10 := by cases e <;> decide

section
variable {s : State}

theorem State.CompletesIn.ends {r : Res} (h : s.CompletesIn r) : s.EndsIn r := by
  obtain ⟨t, ht, hcode, hcnt⟩ := h
  exact ⟨t, ht, .inl ⟨hcode, hcnt⟩⟩

theorem State.endsIn_checked {cs : List Check} {k : State → Res} (h : s.EndsIn (k s)) : s.EndsIn (s.checked cs k) := by
  rcases s.checked_cases cs k with ⟨e, w, -, hraise⟩ | ⟨-, hpass⟩
  · exact ⟨_, hraise, .inr ⟨e.code, w, e.code_range.1, e.code_range.2, .inl rfl⟩⟩
  · exact hpass ▸ h

theorem State.endsIn_of_completes {cs : List Check} {k : State → Res} (h : s.CompletesIn (k s)) : s.EndsIn (s.checked cs k) :=
  State.endsIn_checked h.ends

/-- A command that may consult the oracle: what is left of it completes, whatever answers are still to come. -/
theorem State.endsIn_allocating {need : Bool} {k : State → Res}
    (h : ∀ answers : List Bool, s.CompletesIn (k { s with allocs := answers })) : s.EndsIn (s.allocating need k) := by
  rcases s.allocating_cases need k with ⟨-, hk⟩ | ⟨-, -, hk⟩ | ⟨-, -, hk⟩
  · exact hk ▸ (h s.allocs).ends
  · exact hk ▸ (h s.allocs.tail).ends
  · exact ⟨_, hk, .inr ⟨2, 0, by decide, by decide, .inr ⟨rfl, rfl, rfl⟩⟩⟩

theorem State.completesIn_finish {u : State} {r0 r1 : Word64} {n : Nat} (h : u.cr.errCnt = s.cr.errCnt := by rfl) :
    s.CompletesIn (.next (u.finish r0 r1 n)) := ⟨_, rfl, rfl, h⟩

theorem State.completesIn_finishBuf {u : State} {a n : Nat} {out : List Cplx} (h : u.cr.errCnt = s.cr.errCnt := by rfl) :
    s.CompletesIn (.next (u.finishBuf a out n)) := ⟨_, rfl, rfl, h⟩

end

/-! ### PIPERX counts neither errors nor truncations before its end -/

/-- A working copy's control registers have the counters `ERR_CNT` and `XRUN_CNT` of the state. -/
def State.CountersKept (s : State) (p : Pipe) : Prop :=
  (p.cr.errCnt = s.cr.errCnt ∧ p.cr.xrunCnt = s.cr.xrunCnt) ∧
    p.crFreed.errCnt = s.cr.errCnt ∧ p.crFreed.xrunCnt = s.cr.xrunCnt

/-- Every stage of the pipeline keeps `ERR_CNT` and `XRUN_CNT` (R401). -/
theorem State.pipe_counters (s : State) (b hz : Nat) (r : ModeRec) (sig : List Cplx) :
    s.CountersKept (s.pipeBack b r sig (s.pipeAudio b r (s.pipeFront b hz))) := by
  refine State.pipe_induction (P := s.CountersKept) ⟨⟨rfl, rfl⟩, rfl, rfl⟩ (fun p h => h) (fun p h => ?_) (fun p h => h)
    (fun p h => ?_) (fun p h => ?_) (fun cx p h => h) (fun p h => h) (fun p h => ?_) (fun p h => h) (fun sig p h => ?_)
    (fun p h => ?_) (fun p h => h) sig
  · unfold State.pipeBlank; split <;> exact h
  · unfold State.pipeFrac; split <;> exact h
  · unfold State.pipeSmeter; split <;> exact h
  · unfold State.pipeNotch; split <;> exact h
  · unfold State.pipeSquelch; split <;> exact h
  · unfold State.pipeRms; split <;> exact h

/-! ### Every command -/

theorem exec_endsIn (i : Instr) (s : State) : s.EndsIn (exec i s) := by
  cases i with
  | nop id => exact State.CompletesIn.ends State.completesIn_finish
  | finit v id => unfold exec execFinit; exact State.endsIn_checked (State.endsIn_allocating fun _ => State.completesIn_finish)
  | ftune l id => unfold exec execFtune; exact State.endsIn_checked (State.endsIn_allocating fun _ => State.completesIn_finish)
  | fapply id => unfold exec execFapply; exact State.endsIn_of_completes State.completesIn_finishBuf
  | fdecim id => unfold exec execFdecim; exact State.endsIn_of_completes State.completesIn_finishBuf
  | finterp id => unfold exec execFinterp; exact State.endsIn_checked (State.endsIn_allocating fun _ => State.completesIn_finishBuf)
  | fresamp id => unfold exec execFresamp; exact State.endsIn_checked (State.endsIn_allocating fun _ => State.completesIn_finishBuf)
  | hbinit v id => unfold exec execHbinit; exact State.endsIn_of_completes State.completesIn_finish
  | hbdec2 id => unfold exec execHbdec2; exact State.endsIn_of_completes State.completesIn_finishBuf
  | hbint2 id => unfold exec execHbint2; exact State.endsIn_of_completes State.completesIn_finishBuf
  | chsel w id => unfold exec execChsel; exact State.endsIn_checked (State.endsIn_allocating fun _ => State.completesIn_finish)
  | chrun id => unfold exec execChrun; exact State.endsIn_of_completes State.completesIn_finishBuf
  | frac id => unfold exec execFrac; exact State.endsIn_of_completes State.completesIn_finishBuf
  | dminit id => unfold exec execDminit; exact State.endsIn_checked (State.endsIn_allocating fun _ => State.completesIn_finish)
  | demod id => unfold exec execDemod; exact State.endsIn_checked (State.endsIn_allocating fun _ => State.completesIn_finishBuf)
  | restore id => unfold exec execRestore; exact State.endsIn_checked (State.endsIn_allocating fun _ => State.completesIn_finishBuf)
  | modinit id => unfold exec execModinit; exact State.endsIn_of_completes State.completesIn_finish
  | mod id => unfold exec execMod; exact State.endsIn_of_completes State.completesIn_finishBuf
  | agcinit f id => unfold exec execAgcinit; exact State.endsIn_checked (State.endsIn_allocating fun _ => State.completesIn_finish)
  | agcrun x id => unfold exec execAgcrun; exact State.endsIn_of_completes State.completesIn_finishBuf
  | nbinit id => unfold exec execNbinit; exact State.endsIn_checked (State.endsIn_allocating fun _ => State.completesIn_finish)
  | nbrun id =>
    unfold exec execNbrun
    refine State.endsIn_of_completes ?_
    split
    · exact State.completesIn_finish
    · exact State.completesIn_finishBuf
  | aninit id => unfold exec execAninit; exact State.endsIn_checked (State.endsIn_allocating fun _ => State.completesIn_finish)
  | anrun id => unfold exec execAnrun; exact State.endsIn_of_completes State.completesIn_finishBuf
  | piperx id =>
    unfold exec execPiperx
    refine State.endsIn_checked (State.endsIn_allocating fun answers => State.completesIn_finishBuf ?_)
    obtain ⟨⟨hcr, -⟩, hfreed, -⟩ := s.pipe_counters id ((s.cfg.rateHz (s.bank id).chain.rateId).getD 0) (s.latchedMode id)
      (s.pipeFront id ((s.cfg.rateHz (s.bank id).chain.rateId).getD 0)).x
    dsimp only
    split
    · exact hfreed
    · exact hcr
  | bkfree id =>
    unfold exec execBkfree
    refine State.endsIn_of_completes (State.completesIn_finish ?_)
    unfold CtrlRegs.freeNotch
    split <;> rfl

/-- Settles O13: the shared ends of a command say it of each. -/
theorem everyCommandEnds : Obligations.EveryCommandEnds := exec_endsIn

end Sys2Proof.Machine
end

section
/-! PROOFS. Stage 9 of PIPERX (spec/47_orchestrator.md R412 to R414): the key-down machine and the sidetone after so many frames, and
the frame each sample becomes. -/

namespace Sys2Proof.Machine

/-! ### The key-down machine, frame by frame (R412) -/

/-- The key-down machine after `q` frames of a block: its mute state, its envelope and its sidetone phase. -/
def KeyState.after (p : Params) (c : KeyCfg) (k : KeyState) (q : Nat) : KeyState :=
  { st := (k.muteAfter c.hold c.fade c.down q).1, n := (k.muteAfter c.hold c.fade c.down q).2
    lvl := k.levelAfter c.fade c.down q, tone := k.phaseAfter p c.fade c.freq c.down q }

@[simp] theorem KeyState.after_zero (p : Params) (c : KeyCfg) (k : KeyState) : k.after p c 0 = k := by
  cases k
  simp only [KeyState.after, KeyState.muteAfter, KeyState.levelAfter, KeyState.phaseAfter, if_true, KeyState.mk.injEq, true_and,
    and_true]
  split_ifs <;> omega

section
variable {p : Params} {c : KeyCfg} {k : KeyState}

/-- One frame of the machine: its gain is the one of the frame's position, and it goes on to the next position (R412). -/
theorem KeyState.gain_after (hfade : 1 ≤ c.fade) (hpos : k.st = .fadeIn → k.n < c.fade) (q : Nat) :
    (k.after p c q).gain c.fade c.hold c.down =
      ({ k.after p c q with
          st := (k.muteAfter c.hold c.fade c.down (q + 1)).1, n := (k.muteAfter c.hold c.fade c.down (q + 1)).2 },
        k.gainAt c.fade c.hold c.down q) := by
  cases hd : c.down with
  | true => simp [KeyState.gain, KeyState.gainAt, KeyState.muteAfter]
  | false =>
    cases hs : k.st <;>
      simp only [KeyState.after, KeyState.gain, KeyState.gainAt, KeyState.muteAfter, KeyState.silent, KeyState.fadePos,
        KeyState.holdStep, KeyState.fadeStep, hd, hs] <;>
      grind

/-- One frame of the envelope (R413). -/
theorem KeyState.envelope_lvl (fade : Nat) (down : Bool) (k : KeyState) :
    k.envelope fade down = { k with lvl := k.levelAfter fade down 1 } := by
  unfold KeyState.envelope KeyState.levelAfter
  split_ifs <;> simp [*]

theorem KeyState.levelAfter_succ (fade : Nat) (down : Bool) (k : KeyState) (q : Nat) :
    { k with lvl := k.levelAfter fade down q }.levelAfter fade down 1 = k.levelAfter fade down (q + 1) := by
  unfold KeyState.levelAfter
  split_ifs <;> grind

/-- A frame that sounds has the phase of all frames before it: the envelope was up since the start of the block (R413). -/
theorem KeyState.phaseAfter_of_sounding (hfade : 1 ≤ c.fade) {q : Nat} (h : k.levelAfter c.fade c.down (q + 1) ≠ 0) :
    k.phaseAfter p c.fade c.freq c.down q = toneAfter p c.freq k.tone q := by
  have hup : q ≠ 0 → k.levelAfter c.fade c.down q ≠ 0 := by
    unfold KeyState.levelAfter at h ⊢
    grind
  unfold KeyState.phaseAfter
  split_ifs with h0 h1
  · rw [h0]
    rfl
  · exact absurd h1 (hup h0)
  · rfl

theorem toneAfter_succ (p : Params) (freq tone : Real64) (q : Nat) :
    toneAfter p freq tone (q + 1) = toneNext p freq (toneAfter p freq tone q) := rfl

/-- One frame of the sidetone (R413). -/
theorem KeyState.toneSample_eq (hfade : 1 ≤ c.fade) (q : Nat) (st : KeyMode) (n : Nat) :
    { k.after p c q with st := st, n := n }.toneSample p c.fade c.freq c.down c.toneSel =
      ({ k.after p c (q + 1) with st := st, n := n }, k.toneAt p c.fade c.freq c.down c.toneSel q) := by
  unfold KeyState.toneSample
  rw [KeyState.envelope_lvl]
  have hl : { k.after p c q with st := st, n := n }.levelAfter c.fade c.down 1 = k.levelAfter c.fade c.down (q + 1) :=
    k.levelAfter_succ c.fade c.down q
  dsimp only
  rw [hl]
  by_cases h : k.levelAfter c.fade c.down (q + 1) = 0
  · simp [KeyState.after, KeyState.phaseAfter, KeyState.toneAt, h]
  · have hphase := KeyState.phaseAfter_of_sounding (p := p) hfade h
    have hnext : k.phaseAfter p c.fade c.freq c.down (q + 1) = toneNext p c.freq (toneAfter p c.freq k.tone q) := by
      simp [KeyState.phaseAfter, h, toneAfter_succ]
    cases hsel : c.toneSel <;> simp [KeyState.after, KeyState.toneAt, h, hphase, hnext]

/-! ### Stage 9 (R401, R414) -/

/-- The frame of sample `z` at place `q` of a block. -/
def KeyState.frameAt (p : Params) (c : KeyCfg) (kind : ModeKind) (k : KeyState) (q : Nat) (z : Cplx) : Cplx :=
  let fr := stereo kind z
  let g := k.gainAt c.fade c.hold c.down q
  let t := k.toneAt p c.fade c.freq c.down c.toneSel q
  ⟨(fr.re.mul g).add t, (fr.im.mul g).add t⟩

theorem keyFrame_after (hfade : 1 ≤ c.fade) (hpos : k.st = .fadeIn → k.n < c.fade) (kind : ModeKind) (q : Nat) (z : Cplx) :
    keyFrame p c kind (k.after p c q) z = (k.after p c (q + 1), k.frameAt p c kind q z) := by
  simp only [keyFrame, KeyState.gain_after hfade hpos, KeyState.toneSample_eq hfade]
  rfl

/-- Stage 9 from place `q` of a block on. -/
theorem keyLoop_after (hfade : 1 ≤ c.fade) (hpos : k.st = .fadeIn → k.n < c.fade) (kind : ModeKind) (q : Nat) (x : List Cplx) :
    (keyLoop p c kind (k.after p c q) x).k = k.after p c (q + x.length) ∧
      (keyLoop p c kind (k.after p c q) x).out = x.mapIdx fun i z => k.frameAt p c kind (q + i) z := by
  induction x generalizing q with
  | nil => exact ⟨rfl, rfl⟩
  | cons z x ih =>
    obtain ⟨hk, hout⟩ := ih (q + 1)
    simp only [keyLoop, keyFrame_after hfade hpos, hk, hout, List.length_cons, List.mapIdx_cons]
    refine ⟨by congr 1; omega, ?_⟩
    congr 2
    funext i z
    congr 1
    omega

/-- Stage 9 over a block: the machine after its frames, and each frame by its place. -/
theorem keyLoop_eq (hfade : 1 ≤ c.fade) (hpos : k.st = .fadeIn → k.n < c.fade) (kind : ModeKind) (x : List Cplx) :
    (keyLoop p c kind k x).k = k.after p c x.length ∧
      (keyLoop p c kind k x).out = x.mapIdx fun q z => k.frameAt p c kind q z := by
  simpa using keyLoop_after (p := p) hfade hpos kind 0 x

end

end Sys2Proof.Machine
end

section
/-! PROOFS. PIPERX (spec/47_orchestrator.md R401): how many samples each stage hands to the next, and the state the command leaves when
its checks hold. -/

namespace Sys2Proof.Machine

/-! ### The samples a stage makes -/

theorem hbDec2_trunc (h : List Real64) (i : HBInst) (x : List Cplx) : (hbDec2 h i x).trunc = false := by
  induction x generalizing i with
  | nil => rfl
  | cons z x ih =>
    rw [hbDec2_cons]
    exact ih _

/-- A decimating stage never gives more samples than it takes, and is never cut (R170, R206). -/
theorem State.decStage_bounds (s : State) (p : Place) (st : StageInst) (x : List Cplx) :
    (s.decStage p st x).out.length ≤ x.length ∧ (s.decStage p st x).trunc = false := by
  cases st with
  | hb i =>
    refine ⟨?_, hbDec2_trunc _ i _⟩
    simp only [State.decStage, hbStage, hbRun, outputAs_length, hbDec2_length, StageInst.carried]
    split <;> omega
  | fir f r =>
    obtain ⟨hlen, -, htrunc, -⟩ := firDecim_spec (s.coefs f) r f (outputAs f.variant x)
    exact ⟨by simpa [State.decStage, firStage, firRun] using hlen, htrunc⟩

/-- A decimating cascade never gives more samples than it takes, and is never cut (R228). -/
theorem State.runDec_bounds (s : State) (p : Place) (st : List StageInst) (x : List Cplx) :
    (s.runDec p st x).out.length ≤ x.length ∧ (s.runDec p st x).trunc = false := by
  induction st generalizing x with
  | nil => exact ⟨Nat.le_refl _, rfl⟩
  | cons k st ih =>
    obtain ⟨hlen, htrunc⟩ := s.decStage_bounds (st.length :: p) k x
    obtain ⟨hlen', htrunc'⟩ := ih (s.decStage (st.length :: p) k x).out
    exact ⟨hlen'.trans hlen, (Bool.or_eq_false_iff).mpr ⟨htrunc, htrunc'⟩⟩

/-- An interpolating stage gives at most `MAXBLOCK` samples (R172, R208, R448). -/
theorem State.intStage_length (s : State) (p : Place) (st : StageInst) (x : List Cplx) :
    (s.intStage p st x).out.length ≤ s.cfg.maxBlock := by
  cases st with
  | hb i =>
    simp only [State.intStage, hbStage, hbRun, outputAs_length, hbInt2_length, hbInt2_eaten]
    omega
  | fir f r =>
    have h := (firInterp_spec (s.coefs (f.grown x.length)) r s.cfg.maxBlock (f.grown x.length)
      (outputAs f.variant x)).1
    simpa [State.intStage, firStage, firRun] using h

/-- An interpolating cascade gives at most `MAXBLOCK` samples of as many (R270, R448). -/
theorem State.runInt_length (s : State) (p : Place) (st : List StageInst) (x : List Cplx) (hx : x.length ≤ s.cfg.maxBlock) :
    (s.runInt p st x).out.length ≤ s.cfg.maxBlock := by
  induction st generalizing x with
  | nil => exact hx
  | cons k st ih => exact ih _ (s.intStage_length _ k x)

section
variable (s : State) (c : BankRegs) (d : DemodState) (cap : Nat) (x : List Cplx)

/-- DEMOD gives no more samples than its decimating stages, and its codec no more than `cap` (R256, R268). -/
theorem State.runDemod_length (hx : x.length ≤ cap) : (s.runDemod c d cap x).out.length ≤ cap := by
  have hdec := (s.runDec_bounds (10 :: placeDemod) (s.refreshed d c).dec x).1
  simp only [State.runDemod]
  split
  · simp only [List.length_map, List.length_take]
    omega
  · rw [demodLoop_length]
    omega

end

/-- Every stage hands on at most `MAXBLOCK` samples (R401, R448). -/
theorem State.pipe_length {s : State} (b hz : Nat) (r : ModeRec) (sig : List Cplx) (hn : s.opN ≤ s.cfg.maxBlock) :
    (s.pipeBack b r sig (s.pipeAudio b r (s.pipeFront b hz))).x.length ≤ s.cfg.maxBlock := by
  refine State.pipe_induction (P := fun p => p.x.length ≤ s.cfg.maxBlock) (by simpa [State.pipeStart] using hn)
    (fun p hx => ?_) (fun p hx => ?_) (fun p hx => ?_) (fun p hx => ?_) (fun p hx => ?_) (fun cx p hx => ?_) (fun p hx => ?_)
    (fun p hx => ?_) (fun p hx => ?_) (fun sig p hx => ?_) (fun p hx => ?_) (fun p hx => ?_) sig
  · exact (tuneShift_length ..).trans_le hx
  · unfold State.pipeBlank
    split
    · exact hx
    · exact (nbLoop_length ..).trans_le hx
  · exact (s.runDec_bounds ..).1.trans hx
  · unfold State.pipeFrac
    split
    · exact fracLoop_length ..
    · exact hx
  · unfold State.pipeSmeter
    split <;> exact hx
  · simpa [State.pipeAgc, State.runAgc, agcLoop_length] using hx
  · exact s.runDemod_length _ _ _ _ hx
  · unfold State.pipeNotch
    split
    · exact notchLoop_length ..
    · exact hx
  · exact s.runInt_length _ _ _ hx
  · unfold State.pipeSquelch
    split
    · dsimp only
      split <;> simpa using hx
    · exact hx
  · unfold State.pipeRms
    split <;> exact hx
  · exact (keyLoop_length ..).trans_le hx

/-! ### A working copy, stage by stage -/

/-- What a working copy holds: its sequence, bank and control registers as the rules compute them, and its count of cut stages. -/
def Pipe.Holds (p : Pipe) (x : List Cplx) (k : Bank) (c : CtrlRegs) (n : Nat) : Prop :=
  p.x = x ∧ p.bank = k ∧ p.cr = c ∧ p.truncs = n

section
variable (s : State) {p : Pipe} {x : List Cplx} {k : Bank} {c : CtrlRegs} {n : Nat}

theorem State.pipeStart_holds (b : Nat) :
    (s.pipeStart b).Holds (s.sm.readBlock s.opA s.opN) (s.bank b) s.cr 0 := ⟨rfl, rfl, rfl, rfl⟩

theorem State.pipeTune_holds (b hz : Nat) (h : p.Holds x k c n) :
    (s.pipeTune b hz p).Holds (tuneShift s.cfg (tuneInc (s.bankRegs b).tune hz) k.mix x).2
      { k with mix := (tuneShift s.cfg (tuneInc (s.bankRegs b).tune hz) k.mix x).1 } c n := by
  obtain ⟨rfl, rfl, rfl, rfl⟩ := h
  exact ⟨rfl, rfl, rfl, rfl⟩

theorem State.pipeBlank_holds (h : p.Holds x k c n) :
    (s.pipeBlank p).Holds (if s.cr.nbLevel = 0 then x else (s.runNb k.nb x).out)
      { k with nb := if s.cr.nbLevel = 0 then k.nb else (s.runNb k.nb x).st } c n := by
  obtain ⟨rfl, rfl, rfl, rfl⟩ := h
  unfold State.pipeBlank
  split <;> exact ⟨rfl, rfl, rfl, rfl⟩

theorem State.pipeChain_holds (h : p.Holds x k c n) :
    (s.pipeChain p).Holds (s.runDec placeChain k.chain.stages x).out
      { k with chain := { k.chain with stages := (s.runDec placeChain k.chain.stages x).st } } c n := by
  obtain ⟨rfl, rfl, rfl, rfl⟩ := h
  refine ⟨rfl, rfl, rfl, ?_⟩
  simp [State.pipeChain, Pipe.ran, State.runDec_bounds, bit]

theorem State.pipeFrac_holds (h : p.Holds x k c n) :
    let r := s.runFrac s.cfg.maxBlock k.frac k.fracStep x
    let fractional := k.chain.achRate.eqv k.demod.inRate = false
    (s.pipeFrac p).Holds (if fractional then r.out else x) { k with frac := if fractional then r.st else k.frac } c
      (n + bit (decide fractional && r.trunc)) := by
  obtain ⟨rfl, rfl, rfl, rfl⟩ := h
  unfold State.pipeFrac Bank.fractional
  cases p.bank.chain.achRate.eqv p.bank.demod.inRate <;> exact ⟨rfl, rfl, rfl, rfl⟩

theorem State.pipeSmeter_holds (b : Nat) (h : p.Holds x k c n) :
    (s.pipeSmeter b p).Holds x k { c with smeter := if b = 0 then s.cfg.measureSmeter x else c.smeter } n := by
  obtain ⟨rfl, rfl, rfl, rfl⟩ := h
  unfold State.pipeSmeter
  split <;> exact ⟨rfl, rfl, rfl, rfl⟩

theorem State.pipeAgc_holds (b : Nat) (cx : Bool) (h : p.Holds x k c n) :
    (s.pipeAgc b cx p).Holds (s.runAgc k.agc cx x).out { k with agc := (s.runAgc k.agc cx x).st }
      (c.afterAgc b (s.runAgc k.agc cx x).clamped (s.runAgc k.agc cx x).st.gain) n := by
  obtain ⟨rfl, rfl, rfl, rfl⟩ := h
  exact ⟨rfl, rfl, rfl, rfl⟩

theorem State.pipeDemod_holds (b : Nat) {r : Run DemodState} (h : p.Holds x k c n)
    (hr : r = s.runDemod (s.bankRegs b) k.demod s.cfg.maxBlock x) : (s.pipeDemod b p).Holds r.out { k with demod := r.st } c n := by
  obtain ⟨rfl, rfl, rfl, rfl⟩ := h
  subst hr
  exact ⟨rfl, rfl, rfl, rfl⟩

theorem State.notchRuns_iff (b : Nat) : s.notchRuns b (s.latchedMode b).kind = true ↔ s.NotchRuns b := by
  simp [State.notchRuns, and_assoc]

theorem State.pipeNotch_holds (b : Nat) (h : p.Holds x k c n) :
    let r := s.runNotch k.notch x
    (s.pipeNotch b (s.latchedMode b).kind p).Holds (if s.NotchRuns b then r.out else x)
      { k with notch := if s.NotchRuns b then r.st else k.notch }
      { c with
        notchBin0 := if s.NotchRuns b then notchBin r.st.slot0.tgt else c.notchBin0
        notchBin1 := if s.NotchRuns b then notchBin r.st.slot1.tgt else c.notchBin1 }
      (n + bit (decide (s.NotchRuns b) && r.trunc)) := by
  obtain ⟨rfl, rfl, rfl, rfl⟩ := h
  unfold State.pipeNotch
  by_cases hn : s.NotchRuns b
  · simp only [if_pos ((s.notchRuns_iff b).mpr hn), if_pos hn, decide_eq_true hn]
    exact ⟨rfl, rfl, rfl, rfl⟩
  · simp only [if_neg (mt (s.notchRuns_iff b).mp hn), if_neg hn, decide_eq_false hn]
    exact ⟨rfl, rfl, rfl, rfl⟩

theorem State.pipeRestore_holds {int : List StageInst} (h : p.Holds x k c n) (hint : k.demod.int = int) :
    (s.pipeRestore p).Holds (s.runInt placeRestore int x).out
      { k with demod := { k.demod with int := (s.runInt placeRestore int x).st } } c
      (n + bit (s.runInt placeRestore int x).trunc) := by
  obtain ⟨rfl, rfl, rfl, rfl⟩ := h
  subst hint
  exact ⟨rfl, rfl, rfl, rfl⟩

theorem State.pipeSquelch_holds (b : Nat) (sig : List Cplx) {mode : Nat} (h : p.Holds x k c n)
    (hmode : k.demod.mode = mode) :
    (s.pipeSquelch b sig p).Holds
      (if b = 0 ∧ s.cfg.squelchOpen s.cr.squelchThr sig mode = false then List.replicate x.length .zero else x) k c n := by
  obtain ⟨rfl, rfl, rfl, rfl⟩ := h
  subst hmode
  unfold State.pipeSquelch
  by_cases hb : b = 0
  · cases s.cfg.squelchOpen s.cr.squelchThr sig p.bank.demod.mode <;> simp [Pipe.Holds, hb]
  · simp [Pipe.Holds, hb]

theorem State.pipeRms_holds (b : Nat) (h : p.Holds x k c n) :
    (s.pipeRms b p).Holds x k { c with audioRms := if b = 0 then s.cfg.measureRms x else c.audioRms } n := by
  obtain ⟨rfl, rfl, rfl, rfl⟩ := h
  unfold State.pipeRms
  split <;> exact ⟨rfl, rfl, rfl, rfl⟩

theorem State.pipeKey_holds (kind : ModeKind) (h : p.Holds x k c n) :
    (s.pipeKey kind p).Holds (keyLoop s.cfg s.keyCfg kind k.key x).out
      { k with key := (keyLoop s.cfg s.keyCfg kind k.key x).k } c n := by
  obtain ⟨rfl, rfl, rfl, rfl⟩ := h
  exact ⟨rfl, rfl, rfl, rfl⟩

end

/-! ### The tuning shift (R403) -/

theorem mixAfter_mixNext (inc mix : Real64) (m : Nat) : mixAfter inc (mixNext mix inc) m = mixAfter inc mix (m + 1) := by
  induction m with
  | zero => rfl
  | succ m ih =>
    rw [mixAfter, ih]
    rfl

theorem tuneShift_eq (p : Params) (inc mix : Real64) (x : List Cplx) :
    tuneShift p inc mix x =
      (mixAfter inc mix x.length, x.mapIdx fun m z => z.mul (oscillator p (mixAfter inc mix m))) := by
  induction x generalizing mix with
  | nil => rfl
  | cons z x ih =>
    rw [tuneShift, ih]
    simp only [mixAfter_mixNext, List.length_cons, List.mapIdx_cons]
    rfl

/-- The tuning shift of a bank's input block. -/
theorem State.tuneShift_input (s : State) (id hz : Nat) :
    tuneShift s.cfg (tuneInc (s.bankRegs id).tune hz) (s.bank id).mix (s.sm.readBlock s.opA s.opN) =
      (mixAfter (s.mixInc id hz) (s.bank id).mix s.opN, s.tunedBlock id hz) := by
  rw [tuneShift_eq, Mem.readBlock_length]
  refine Prod.ext rfl (List.ext_getElem (by simp [State.tunedBlock]) fun m _ _ => ?_)
  simp only [Mem.readBlock, State.tunedBlock, List.getElem_mapIdx, List.getElem_map, List.getElem_range]
  rfl

/-! ### DEMOD keeps what PIPERX reads of a demodulator later -/

section
variable (p : Params) (r : ModeRec)

theorem detect_keeps (d : DemodState) (z : Cplx) :
    (detect p r d z).1.int = d.int ∧ (detect p r d z).1.mode = d.mode := by
  unfold detect
  split <;> exact ⟨rfl, rfl⟩

theorem demodLoop_keeps (tb : List Real64) (useF : Bool) (d : DemodState) (x : List Cplx) :
    (demodLoop p r tb useF d x).d.int = d.int ∧ (demodLoop p r tb useF d x).d.mode = d.mode := by
  induction x generalizing d with
  | nil => exact ⟨rfl, rfl⟩
  | cons z x ih =>
    rw [demodLoop]
    obtain ⟨hint, hmode⟩ := detect_keeps p r (if useF then { d with rxf := (d.rxf.put z).advance } else d)
      (if useF then (d.rxf.put z).dot tb 0 1 else z)
    refine ⟨(ih _).1.trans (hint.trans ?_), (ih _).2.trans (hmode.trans ?_)⟩ <;> cases useF <;> rfl

end

/-- DEMOD keeps the interpolating stages and the latched mode (R251, R256). -/
theorem State.runDemod_keeps (s : State) (c : BankRegs) (d : DemodState) (cap : Nat) (x : List Cplx) :
    (s.runDemod c d cap x).st.int = d.int ∧ (s.runDemod c d cap x).st.mode = d.mode := by
  have href : (s.refreshed d c).int = d.int ∧ (s.refreshed d c).mode = d.mode := by
    unfold State.refreshed
    split <;> exact ⟨rfl, rfl⟩
  obtain ⟨hint, hmode⟩ := demodLoop_keeps s.cfg (s.cfg.modeRec d.mode) (s.coefs (s.refreshed d c).rxf)
    (useFilter s.cfg (s.cfg.modeRec d.mode).kind c.rxfBw)
    { s.refreshed d c with dec := (s.runDec (10 :: placeDemod) (s.refreshed d c).dec x).st }
    (s.runDec (10 :: placeDemod) (s.refreshed d c).dec x).out
  simp only [State.runDemod]
  split <;> exact ⟨hint.trans href.1, hmode.trans href.2⟩

/-! ### The key-down machine in the pipeline -/

/-- Free values leave the key-down machine's state and counter as the rules compute them (R11, R412). -/
theorem State.pipe_keyFreed (s : State) (b hz : Nat) (r : ModeRec) (sig : List Cplx) :
    let p := s.pipeBack b r sig (s.pipeAudio b r (s.pipeFront b hz))
    p.bankFreed.key.st = p.bank.key.st ∧ p.bankFreed.key.n = p.bank.key.n := by
  refine State.pipe_induction (P := fun p => p.bankFreed.key.st = p.bank.key.st ∧ p.bankFreed.key.n = p.bank.key.n)
    ⟨rfl, rfl⟩ (fun p h => h) (fun p h => ?_) (fun p h => h) (fun p h => ?_) (fun p h => ?_) (fun cx p h => h) (fun p h => h)
    (fun p h => ?_) (fun p h => h) (fun sig p h => ?_) (fun p h => ?_) (fun p h => ⟨rfl, rfl⟩) sig
  · unfold State.pipeBlank; split <;> exact h
  · unfold State.pipeFrac; split <;> exact h
  · unfold State.pipeSmeter; split <;> exact h
  · unfold State.pipeNotch; split <;> exact h
  · unfold State.pipeSquelch; split <;> exact h
  · unfold State.pipeRms; split <;> exact h

end Sys2Proof.Machine
end

section
/-! PROOFS. The stages of PIPERX in their order (spec/47_orchestrator.md R400, R401, R403, R405, R407, R409 to R414), each on what the one
before it made, and the state the command leaves when its checks hold. -/

namespace Sys2Proof.Machine

/-! ### What each stage gets and makes -/

section
variable (s : State) (id hz : Nat)

/-- Stage 2 over the tuned block (R333). -/
def State.rxBlank : Run NBState := s.runNb (s.bank id).nb (s.tunedBlock id hz)

/-- The block after stage 2, which is off at level 0 (R336). -/
def State.rxBlanked : List Cplx := if s.cr.nbLevel = 0 then s.tunedBlock id hz else (s.rxBlank id hz).out

/-- Stage 3 (R228). -/
def State.rxChain : Run (List StageInst) := s.runDec placeChain (s.bank id).chain.stages (s.rxBlanked id hz)

/-- The rates differ, so the fractional correction runs (R405). -/
abbrev State.RxFractional : Prop := (s.bank id).chain.achRate.eqv (s.bank id).demod.inRate = false

/-- The fractional correction (R405). -/
def State.rxFrac : Run FracState :=
  s.runFrac s.cfg.maxBlock (s.bank id).frac (s.bank id).fracStep (s.rxChain id hz).out

/-- The decimated stream. -/
def State.rxSignal : List Cplx := if s.RxFractional id then (s.rxFrac id hz).out else (s.rxChain id hz).out

/-- The AGC on the baseband (R409). -/
def State.rxAgcBase : AgcRun := s.runAgc (s.bank id).agc true (s.rxSignal id hz)

/-- Stage 4 (R256). -/
def State.rxDemod : Run DemodState :=
  s.runDemod (s.bankRegs id) (s.bank id).demod s.cfg.maxBlock
    (if (s.latchedMode id).agcOnBaseband then (s.rxAgcBase id hz).out else s.rxSignal id hz)

/-- Stage 5 (R363). -/
def State.rxNotch : Run NotchState := s.runNotch (s.bank id).notch (s.rxDemod id hz).out

/-- The audio after stage 5 (R407). -/
def State.rxNotched : List Cplx := if s.NotchRuns id then (s.rxNotch id hz).out else (s.rxDemod id hz).out

/-- Stage 6 (R270). -/
def State.rxRestore : Run (List StageInst) := s.runInt placeRestore (s.bank id).demod.int (s.rxNotched id hz)

/-- The audio after stage 7 (R410). -/
def State.rxSquelched : List Cplx :=
  if id = 0 ∧ s.cfg.squelchOpen s.cr.squelchThr (s.rxSignal id hz) (s.bank id).demod.mode = false
  then List.replicate (s.rxRestore id hz).out.length .zero else (s.rxRestore id hz).out

/-- The AGC on the audio (R409). -/
def State.rxAgcAudio : AgcRun :=
  s.runAgc (s.bank id).agc (decide ((s.latchedMode id).kind = .digRaw)) (s.rxSquelched id hz)

/-- The one AGC that runs (R409). -/
def State.rxAgc : AgcRun := if (s.latchedMode id).agcOnBaseband then s.rxAgcBase id hz else s.rxAgcAudio id hz

/-- The audio that stage 9 takes. -/
def State.rxAudio : List Cplx :=
  if (s.latchedMode id).agcOnBaseband then s.rxSquelched id hz else (s.rxAgcAudio id hz).out

/-- How many stages are cut (R448). -/
def State.rxTruncs : Nat :=
  bit (decide (s.RxFractional id) && (s.rxFrac id hz).trunc) + bit (decide (s.NotchRuns id) && (s.rxNotch id hz).trunc) +
    bit (s.rxRestore id hz).trunc

/-- The bank before stage 9, which touches only its key-down machine. -/
def State.rxBank : Bank :=
  { s.bank id with
    mix := mixAfter (s.mixInc id hz) (s.bank id).mix s.opN
    nb := if s.cr.nbLevel = 0 then (s.bank id).nb else (s.rxBlank id hz).st
    chain := { (s.bank id).chain with stages := (s.rxChain id hz).st }
    frac := if s.RxFractional id then (s.rxFrac id hz).st else (s.bank id).frac
    agc := (s.rxAgc id hz).st
    demod := { (s.rxDemod id hz).st with int := (s.rxRestore id hz).st }
    notch := if s.NotchRuns id then (s.rxNotch id hz).st else (s.bank id).notch }

/-- The control registers PIPERX commits, but for what its end writes. -/
def State.rxRegs : CtrlRegs :=
  { s.cr with
    ovrCnt := s.cr.ovrCnt + BitVec.ofNat 32 (s.rxAgc id hz).clamped
    agcGain := if id = 0 then (s.rxAgc id hz).st.gain else s.cr.agcGain
    smeter := if id = 0 then s.cfg.measureSmeter (s.rxSignal id hz) else s.cr.smeter
    audioRms := if id = 0 then s.cfg.measureRms (s.rxAudio id hz) else s.cr.audioRms
    notchBin0 := if s.NotchRuns id then notchBin (s.rxNotch id hz).st.slot0.tgt else s.cr.notchBin0
    notchBin1 := if s.NotchRuns id then notchBin (s.rxNotch id hz).st.slot1.tgt else s.cr.notchBin1 }

/-- Stage 9 (R401). -/
def State.rxKey : KeyLoop := keyLoop s.cfg s.keyCfg (s.latchedMode id).kind (s.bank id).key (s.rxAudio id hz)

/-! ### The working copy at the end of the stages -/

/-- The stages up to the decimated stream. -/
theorem State.pipeFront_holds :
    (s.pipeFront id hz).Holds (s.rxSignal id hz)
      { s.bank id with
        mix := mixAfter (s.mixInc id hz) (s.bank id).mix s.opN
        nb := if s.cr.nbLevel = 0 then (s.bank id).nb else (s.rxBlank id hz).st
        chain := { (s.bank id).chain with stages := (s.rxChain id hz).st }
        frac := if s.RxFractional id then (s.rxFrac id hz).st else (s.bank id).frac }
      { s.cr with smeter := if id = 0 then s.cfg.measureSmeter (s.rxSignal id hz) else s.cr.smeter }
      (bit (decide (s.RxFractional id) && (s.rxFrac id hz).trunc)) := by
  have htune := s.pipeTune_holds id hz (s.pipeStart_holds id)
  rw [State.tuneShift_input] at htune
  have h := s.pipeSmeter_holds id (s.pipeFrac_holds (s.pipeChain_holds (s.pipeBlank_holds htune)))
  rw [Nat.zero_add] at h
  exact h

/-- The stages from the decimated stream on, the AGC on the baseband or on the audio (R409). -/
theorem State.pipeBack_holds :
    (s.pipeBack id (s.latchedMode id) (s.rxSignal id hz) (s.pipeAudio id (s.latchedMode id) (s.pipeFront id hz))).Holds
      (s.rxKey id hz).out { s.rxBank id hz with key := (s.rxKey id hz).k } (s.rxRegs id hz) (s.rxTruncs id hz) := by
  have hfront := s.pipeFront_holds id hz
  obtain ⟨hint, hmode⟩ :
      (s.rxDemod id hz).st.int = (s.bank id).demod.int ∧ (s.rxDemod id hz).st.mode = (s.bank id).demod.mode :=
    s.runDemod_keeps ..
  unfold State.rxKey State.rxBank State.rxRegs State.rxAudio State.rxAgc State.pipeBack State.pipeAudio
  cases ha : (s.latchedMode id).agcOnBaseband with
  | true =>
    have hdemod : s.rxDemod id hz = s.runDemod (s.bankRegs id) (s.bank id).demod s.cfg.maxBlock (s.rxAgcBase id hz).out := by
      rw [State.rxDemod, if_pos ha]
    have haudio := s.pipeNotch_holds id (s.pipeDemod_holds id (s.pipeAgc_holds id true hfront) hdemod)
    have hrestore := s.pipeSquelch_holds id (s.rxSignal id hz) (s.pipeRestore_holds haudio hint) hmode
    exact s.pipeKey_holds (s.latchedMode id).kind (s.pipeRms_holds id hrestore)
  | false =>
    have hdemod : s.rxDemod id hz = s.runDemod (s.bankRegs id) (s.bank id).demod s.cfg.maxBlock (s.rxSignal id hz) := by
      rw [State.rxDemod, if_neg (by simp [ha])]
    have haudio := s.pipeNotch_holds id (s.pipeDemod_holds id hfront hdemod)
    have hrestore := s.pipeSquelch_holds id (s.rxSignal id hz) (s.pipeRestore_holds haudio hint) hmode
    have hagc := s.pipeAgc_holds id (decide ((s.latchedMode id).kind = .digRaw)) hrestore
    exact s.pipeKey_holds (s.latchedMode id).kind (s.pipeRms_holds id hagc)

end

/-! ### What PIPERX leaves -/

theorem exec_piperx (id : Nat) (s : State) : exec (.piperx id) s = execPiperx id s := rfl

section
variable (s : State) (id : Nat)

/-- The rate of the bank's input, in Hz (R401 step 6). -/
def State.pipeRate : Nat := (s.cfg.rateHz (s.bank id).chain.rateId).getD 0

/-- The working copy after the stages of PIPERX (R401). -/
def State.pipe : Pipe :=
  s.pipeBack id (s.latchedMode id) (s.pipeFront id (s.pipeRate id)).x
    (s.pipeAudio id (s.latchedMode id) (s.pipeFront id (s.pipeRate id)))

/-- PIPERX consults the oracle: a filter or a scratch buffer is built again (R446). -/
def State.pipeNeeds : Bool :=
  (s.bank id).demod.stale (s.bankRegs id) ||
    s.stagesGrow placeRestore (s.bank id).demod.int (s.pipeAudio id (s.latchedMode id) (s.pipeFront id (s.pipeRate id))).x

/-- The end of PIPERX with the working copy `p`, which it commits whole (R401). -/
def State.finishPipe (p : Pipe) : State :=
  { s.setBank id (if p.bad then p.bankFreed else p.bank) with cr := if p.bad then p.crFreed else p.cr }.finishBuf s.op2
    (emitted s.draws .cplx p.bad p.x) p.truncs

/-- The state PIPERX leaves, on the state the oracle left. -/
def State.piperxDone : State := (if s.pipeNeeds id then s.consulted else s).finishPipe id (s.pipe id)

theorem State.pipe_holds :
    (s.pipe id).Holds (s.rxKey id (s.pipeRate id)).out
      { s.rxBank id (s.pipeRate id) with key := (s.rxKey id (s.pipeRate id)).k } (s.rxRegs id (s.pipeRate id))
      (s.rxTruncs id (s.pipeRate id)) := by
  have h := s.pipeBack_holds id (s.pipeRate id)
  rw [← (s.pipeFront_holds id (s.pipeRate id)).1] at h
  exact h

end

section
variable {s : State} {id : Nat}

/-- PIPERX when its checks hold and the oracle, if it is asked, answers success (R401, R446). -/
theorem exec_piperx_of_ready (hchecks : ∀ c ∈ s.pipeChecks id, c.ok = true) (halloc : s.allocOk = true) :
    exec (.piperx id) s = .next (s.piperxDone id) := by
  rw [exec_piperx, execPiperx, State.checked_pass hchecks]
  refine (State.allocating_pass (need := s.pipeNeeds id) fun _ => halloc).trans ?_
  unfold State.piperxDone
  cases s.pipeNeeds id <;> rfl

theorem State.pipeChecks_lt (hchecks : ∀ c ∈ s.pipeChecks id, c.ok = true) : id < s.nbanks :=
  (idCheck_ok id s.nbanks).mp (hchecks _ (by simp [State.pipeChecks]))

theorem State.pipeChecks_size (hchecks : ∀ c ∈ s.pipeChecks id, c.ok = true) : s.opN ≤ s.cfg.maxBlock :=
  s.sizeCheck_ok.mp (hchecks _ (by simp [State.pipeChecks]))

theorem State.bank_piperxDone (hid : id < s.nbanks) :
    (s.piperxDone id).bank id = if (s.pipe id).bad then (s.pipe id).bankFreed else (s.pipe id).bank := by
  have h : ∀ (u : State) (p : Pipe), id < u.nbanks → (u.finishPipe id p).bank id = if p.bad then p.bankFreed else p.bank :=
    fun _ _ hu => State.bank_setBank_self _ hu
  unfold State.piperxDone
  cases s.pipeNeeds id <;> exact h _ _ hid

theorem State.cr_piperxDone (s : State) (id : Nat) : (s.piperxDone id).cr =
    let c := if (s.pipe id).bad then (s.pipe id).crFreed else (s.pipe id).cr
    { c with
      status := .ofTrunc (decide ((s.pipe id).truncs ≠ 0))
      xrunCnt := c.xrunCnt + BitVec.ofNat 32 (s.pipe id).truncs } := by
  unfold State.piperxDone
  generalize s.pipe id = p
  rfl

theorem State.sm_piperxDone (s : State) (id : Nat) : (s.piperxDone id).sm =
    s.sm.writeBlock s.op2 (emitted s.draws .cplx (s.pipe id).bad (s.pipe id).x) := by
  unfold State.piperxDone
  cases s.pipeNeeds id <;> exact State.finishBuf_sm ..

theorem State.r0_piperxDone (s : State) (id : Nat) : (s.piperxDone id).r0 = BitVec.ofNat 64 (s.pipe id).x.length :=
  congrArg (BitVec.ofNat 64) (emitted_length ..)

end

end Sys2Proof.Machine
end

section
/-! PROOFS. PIPERX completes (spec/47_orchestrator.md R401, R412, R413, R448), and on finite values it leaves what its stages make. -/

namespace Sys2Proof.Machine

/-! ### The key-down machine over a block, whatever its counters hold (R412) -/

section
variable {p : Params} {c : KeyCfg} {kind : ModeKind}

theorem KeyState.toneSample_keeps (fade : Nat) (freq : Real64) (down sel : Bool) (k : KeyState) :
    (k.toneSample p fade freq down sel).1.st = k.st ∧ (k.toneSample p fade freq down sel).1.n = k.n := by
  simp only [KeyState.toneSample, KeyState.envelope_lvl]
  split <;> exact ⟨rfl, rfl⟩

/-- A frame's mute state is what the gain leaves (R401). -/
theorem keyFrame_mute (k : KeyState) (z : Cplx) :
    (keyFrame p c kind k z).1.st = (k.gain c.fade c.hold c.down).1.st ∧
      (keyFrame p c kind k z).1.n = (k.gain c.fade c.hold c.down).1.n :=
  KeyState.toneSample_keeps ..

theorem KeyState.fadeStep_ne_keyed (fade : Nat) (k : KeyState) : (k.fadeStep fade).1.st ≠ .keyed := by
  unfold KeyState.fadeStep
  dsimp only
  split <;> nofun

theorem KeyState.holdStep_ne_keyed (fade hold : Nat) (k : KeyState) : (k.holdStep fade hold).1.st ≠ .keyed := by
  unfold KeyState.holdStep
  split
  · nofun
  · exact KeyState.fadeStep_ne_keyed fade _

theorem KeyState.gain_up_ne_keyed (fade hold : Nat) (k : KeyState) : (k.gain fade hold false).1.st ≠ .keyed := by
  unfold KeyState.gain
  simp only [Bool.false_eq_true, if_false]
  split
  · simp [*]
  · exact KeyState.holdStep_ne_keyed fade hold _
  · exact KeyState.holdStep_ne_keyed fade hold _
  · exact KeyState.fadeStep_ne_keyed fade _

theorem keyLoop_cons (k : KeyState) (z : Cplx) (x : List Cplx) :
    (keyLoop p c kind k (z :: x)).k = (keyLoop p c kind (keyFrame p c kind k z).1 x).k := by rw [keyLoop]

/-- A block that has a frame leaves the machine as its last frame does. -/
theorem keyLoop_last (k : KeyState) {x : List Cplx} (hx : x ≠ []) :
    ∃ j z, (keyLoop p c kind k x).k = (keyFrame p c kind j z).1 := by
  induction x generalizing k with
  | nil => exact absurd rfl hx
  | cons z x ih =>
    rw [keyLoop_cons]
    cases x with
    | nil => exact ⟨k, z, rfl⟩
    | cons y x => exact ih (keyFrame p c kind k z).1 (List.cons_ne_nil y x)

/-- With the key down the machine ends keyed. -/
theorem keyLoop_down (hd : c.down = true) (k : KeyState) {x : List Cplx} (hx : x ≠ []) :
    (keyLoop p c kind k x).k.st = .keyed ∧ (keyLoop p c kind k x).k.n = 0 := by
  obtain ⟨j, z, h⟩ := keyLoop_last (p := p) (c := c) (kind := kind) k hx
  rw [h, (keyFrame_mute j z).1, (keyFrame_mute j z).2, hd]
  exact ⟨rfl, rfl⟩

/-- With the key up it does not. -/
theorem keyLoop_up (hd : c.down = false) (k : KeyState) {x : List Cplx} (hx : x ≠ []) :
    (keyLoop p c kind k x).k.st ≠ .keyed := by
  obtain ⟨j, z, h⟩ := keyLoop_last (p := p) (c := c) (kind := kind) k hx
  rw [h, (keyFrame_mute j z).1, hd]
  exact KeyState.gain_up_ne_keyed _ _ j

/-- With the key up a receiving machine goes on receiving. -/
theorem keyLoop_rx (hd : c.down = false) {k : KeyState} (hk : k.st = .rx) (x : List Cplx) :
    (keyLoop p c kind k x).k.st = .rx := by
  induction x generalizing k with
  | nil => exact hk
  | cons z x ih =>
    rw [keyLoop_cons]
    refine ih ?_
    rw [(keyFrame_mute k z).1, hd]
    simp [KeyState.gain, hk]

end

/-! ### PIPERX completes -/

section
variable {s : State} {id : Nat}

/-- The counters PIPERX leaves: no error, and one truncation for each stage that was cut (R448). -/
theorem State.counters_piperxDone (s : State) (id : Nat) :
    (s.piperxDone id).cr.errCnt = s.cr.errCnt ∧
      (s.piperxDone id).cr.xrunCnt = s.cr.xrunCnt + BitVec.ofNat 32 (s.pipe id).truncs := by
  have hkept : s.CountersKept (s.pipe id) := s.pipe_counters ..
  obtain ⟨⟨herr, hxrun⟩, herr', hxrun'⟩ := hkept
  rw [State.cr_piperxDone]
  split
  · exact ⟨herr', congrArg (· + BitVec.ofNat 32 (s.pipe id).truncs) hxrun'⟩
  · exact ⟨herr, congrArg (· + BitVec.ofNat 32 (s.pipe id).truncs) hxrun⟩

/-- The key-down machine PIPERX leaves is the one its frames leave, its phase aside (R11, R412). -/
theorem State.key_piperxDone (hid : id < s.nbanks) :
    ((s.piperxDone id).bank id).key.st = (s.rxKey id (s.pipeRate id)).k.st ∧
      ((s.piperxDone id).bank id).key.n = (s.rxKey id (s.pipeRate id)).k.n := by
  obtain ⟨-, hbank, -, -⟩ := s.pipe_holds id
  have hfreed : (s.pipe id).bankFreed.key.st = (s.pipe id).bank.key.st ∧ (s.pipe id).bankFreed.key.n = (s.pipe id).bank.key.n :=
    s.pipe_keyFreed ..
  have hkey : (s.pipe id).bank.key = (s.rxKey id (s.pipeRate id)).k := congrArg Bank.key hbank
  rw [State.bank_piperxDone hid, ← hkey]
  split
  · exact hfreed
  · exact ⟨rfl, rfl⟩

/-- Settles O57: the pipeline hands on at most `MAXBLOCK` samples, counts its cuts, and its last frame leaves the key-down machine. -/
theorem piperxCompletes : Obligations.PiperxCompletes := by
  intro s id _ hchecks halloc
  obtain ⟨herr, hxrun⟩ := s.counters_piperxDone id
  obtain ⟨hst, hn⟩ := State.key_piperxDone (State.pipeChecks_lt hchecks)
  have hne : (s.pipe id).x.length ≠ 0 → s.rxAudio id (s.pipeRate id) ≠ [] := by
    rw [(s.pipe_holds id).1, State.rxKey, keyLoop_length]
    exact fun h he => h (List.length_eq_zero_iff.mpr he)
  have hlen : (s.pipe id).x.length ≤ s.cfg.maxBlock := State.pipe_length id _ _ _ (State.pipeChecks_size hchecks)
  refine ⟨_, (s.pipe id).x.length, (s.pipe id).truncs, exec_piperx_of_ready hchecks halloc, s.r0_piperxDone id,
    hlen, rfl, rfl, herr, hxrun, ?_, ?_, ?_⟩
  · intro hd hx
    rw [hst, hn]
    exact keyLoop_down hd _ (hne hx)
  · intro hd hrx
    rw [hst]
    exact keyLoop_rx hd hrx _
  · intro hd hx
    rw [hst]
    exact keyLoop_up hd _ (hne hx)

end

end Sys2Proof.Machine
end

section
/-! PROOFS. PIPERX on finite values (spec/47_orchestrator.md R400, R401, R411 to R414): it commits what its stages make, and its frames
are the audio under the gain of each frame's place, with the sidetone. -/

namespace Sys2Proof.Machine

section
variable {s : State} {id hz : Nat}

theorem State.pipeRate_eq (h : s.cfg.rateHz (s.bank id).chain.rateId = some hz) : s.pipeRate id = hz := by
  rw [State.pipeRate, h]
  rfl

/-! ### What PIPERX commits -/

theorem State.r0_piperxDone_of_audio (hrate : s.pipeRate id = hz) : (s.piperxDone id).r0 = BitVec.ofNat 64 (s.rxAudio id hz).length := by
  rw [State.r0_piperxDone, (s.pipe_holds id).1, hrate, State.rxKey, keyLoop_length]

section
variable (hrate : s.pipeRate id = hz) (hbad : (s.pipe id).bad = false)
include hrate hbad

theorem State.cr_piperxDone_of_finite : (s.piperxDone id).cr = { s.rxRegs id hz with
    status := { code := 0, trunc := decide (s.rxTruncs id hz ≠ 0) }
    xrunCnt := s.cr.xrunCnt + BitVec.ofNat 32 (s.rxTruncs id hz) } := by
  obtain ⟨-, -, hcr, htruncs⟩ := s.pipe_holds id
  rw [State.cr_piperxDone, hbad, htruncs, if_neg Bool.false_ne_true, hcr, hrate]
  rfl

theorem State.bank_piperxDone_of_finite (hid : id < s.nbanks) :
    (s.piperxDone id).bank id = { s.rxBank id hz with key := (s.rxKey id hz).k } := by
  obtain ⟨-, hbank, -, -⟩ := s.pipe_holds id
  rw [State.bank_piperxDone hid, hbad, if_neg Bool.false_ne_true, hbank, hrate]

theorem State.read_piperxDone_of_finite (hwf : s.sm.wf = true) {q : Nat} (hq : q < (s.rxKey id hz).out.length) :
    (s.piperxDone id).sm.read (s.op2 + q) = (s.rxKey id hz).out.getD q .zero := by
  obtain ⟨hx, -, -, -⟩ := s.pipe_holds id
  rw [State.sm_piperxDone, hbad, hx, hrate, emitted_finite, Mem.read_writeBlock _ _ _ _ hwf]
  rw [if_pos ⟨Nat.le_add_right .., Nat.add_lt_add_left hq _⟩, Nat.add_sub_cancel_left]
  rfl

end

/-! ### Stage 9 -/

/-- The lengths of fade and hold, when their floors exist (R412). -/
theorem State.keyCfg_eq {fade hold : Nat} {fl : Int}
    (hfl : (s.cfg.fadeTime.mul (.ofNat (s.cfg.canon * s.cfg.outFactor))).roundHalfUp? = some fl) (hfade : fade = max 1 fl.toNat)
    (hhold : if s.cr.holdDelay.isFinite = false ∨ s.cr.holdDelay.lt .zero = true then hold = 0
      else ∃ hl : Int, (s.cr.holdDelay.mul (.ofNat (s.cfg.canon * s.cfg.outFactor))).roundHalfUp? = some hl ∧ hold = hl.toNat) :
    s.keyCfg = { fade := fade, hold := hold, freq := s.cr.sidetoneFreq, down := s.cr.keyDown, toneSel := s.cr.keyTone } := by
  have hf : Params.fadeLen s.cfg s.draws = fade := by
    rw [Params.fadeLen, Params.outRate, hfl, hfade]
    rfl
  have hh : Params.holdLen s.cfg s.draws s.cr.holdDelay = hold := by
    unfold Params.holdLen Params.outRate
    split at hhold
    · rename_i h
      rw [if_pos (by simpa using h), hhold]
    · rename_i h
      obtain ⟨hl, hsome, rfl⟩ := hhold
      rw [if_neg (by simpa using h), hsome]
      rfl
  rw [State.keyCfg, hf, hh]

end

/-- Settles O58: the stages are the pipeline's, and stage 9 is known frame by frame. -/
theorem piperxStages : Obligations.PiperxStages := by
  intro s id hz fade hold fl hwf hmax hchecks halloc hhz hfin hfl hfade hhold hpos
  have hid := State.pipeChecks_lt hchecks
  have hrate := State.pipeRate_eq hhz
  have hbad : (s.pipe id).bad = false := hfin
  have hkey := State.keyCfg_eq hfl hfade hhold
  obtain ⟨hk, hout⟩ := keyLoop_eq (p := s.cfg) (c := s.keyCfg) (k := (s.bank id).key) (by rw [hkey, hfade]; exact Nat.le_max_left ..)
    (by rw [hkey]; exact hpos) (s.latchedMode id).kind (s.rxAudio id hz)
  have hbank := State.bank_piperxDone_of_finite hrate hbad hid
  rw [State.rxKey, hk, hkey] at hbank
  refine ⟨s.piperxDone id, exec_piperx_of_ready hchecks halloc, State.r0_piperxDone_of_audio hrate, rfl,
    State.cr_piperxDone_of_finite hrate hbad, hbank, ?_⟩
  intro q hq
  have hlen : q < (s.rxKey id hz).out.length := (keyLoop_length ..).symm ▸ hq
  have hframe : (s.rxKey id hz).out.getD q .zero =
      (s.bank id).key.frameAt s.cfg s.keyCfg (s.latchedMode id).kind q ((s.rxAudio id hz).getD q .zero) := by
    have hq' : q < (s.rxAudio id hz).length := hq
    rw [State.rxKey, hout, List.getD_eq_getElem?_getD, List.getD_eq_getElem?_getD, List.getElem?_mapIdx,
      List.getElem?_eq_getElem hq']
    rfl
  rw [hkey] at hframe
  exact (State.read_piperxDone_of_finite hrate hbad hwf hlen).trans hframe

end Sys2Proof.Machine
end

section
/-! PROOFS. Why PIPERX is not the sequence of its commands in every state (spec/47_orchestrator.md R416; spec/00_scope.md R11, log 3). CHRUN
reads whole samples, but a cascade whose first stage has the Real variant reads their real parts only. Where the tuning shift makes an
imaginary part infinite, CHRUN has read a value that is not finite and leaves its stages free, and PIPERX has not. -/

namespace Sys2Proof.Machine

theorem exec_chrun (id : Nat) (s : State) : exec (.chrun id) s = execChrun id s := rfl
theorem exec_demod (id : Nat) (s : State) : exec (.demod id) s = execDemod id s := rfl
theorem exec_restore (id : Nat) (s : State) : exec (.restore id) s = execRestore id s := rfl

/-! ### The commands after CHRUN keep the chain -/

/-- An answer keeps the chain of bank `id`, and the number of banks. -/
def State.KeepsChain (s : State) (id : Nat) (r : Res) : Prop :=
  ∀ t, r = .next t → t.nbanks = s.nbanks ∧ (t.bank id).chain = (s.bank id).chain

section
variable {s : State} {id : Nat}

theorem State.keepsChain_checked {cs : List Check} {k : State → Res} (h : s.KeepsChain id (k s)) :
    s.KeepsChain id (s.checked cs k) := by
  rcases s.checked_cases cs k with ⟨e, w, -, hraise⟩ | ⟨-, hpass⟩
  · intro t ht
    cases hraise.symm.trans ht
    exact ⟨rfl, rfl⟩
  · exact hpass ▸ h

theorem State.keepsChain_allocating {need : Bool} {k : State → Res}
    (h : ∀ answers : List Bool, s.KeepsChain id (k { s with allocs := answers })) : s.KeepsChain id (s.allocating need k) := by
  rcases s.allocating_cases need k with ⟨-, hk⟩ | ⟨-, -, hk⟩ | ⟨-, -, hk⟩
  · exact hk ▸ h s.allocs
  · exact hk ▸ h s.allocs.tail
  · intro t ht
    cases hk.symm.trans ht
    exact ⟨rfl, rfl⟩

/-- A command that puts a bank with the same chain in the place of its bank keeps the chain. -/
theorem State.keepsChain_setBank {t u : State} {k : Bank} (hid : id < s.nbanks) (ht : t.chans = (u.setBank id k).chans)
    (hu : u.chans = s.chans) (hk : k.chain = (s.bank id).chain) : s.KeepsChain id (.next t) := by
  rintro _ ⟨⟩
  have hchan : t.chan id = (s.setBank id k).chan id := by
    simp only [State.chan, ht, State.setBank_chans, hu]
  refine ⟨?_, ?_⟩
  · simp [State.nbanks, ht, hu]
  · rw [State.bank, hchan, s.chan_setBank_self id k hid]
    exact hk

/-- Of the commands PIPERX is made of (R401), those after CHRUN keep the chain. -/
theorem exec_keepsChain {x : Bool} {i : Instr} (hid : id < s.nbanks)
    (hi : i ∈ [.frac id, .demod id, .anrun id, .restore id, .agcrun x id]) : s.KeepsChain id (exec i s) := by
  simp only [List.mem_cons, List.not_mem_nil, or_false] at hi
  rcases hi with rfl | rfl | rfl | rfl | rfl
  · rw [exec_frac, execFrac]
    exact State.keepsChain_checked (State.keepsChain_setBank hid rfl rfl rfl)
  · rw [exec_demod, execDemod]
    exact State.keepsChain_checked (State.keepsChain_allocating fun _ => State.keepsChain_setBank hid rfl rfl rfl)
  · rw [exec_anrun, execAnrun]
    exact State.keepsChain_checked (State.keepsChain_setBank hid rfl rfl rfl)
  · rw [exec_restore, execRestore]
    exact State.keepsChain_checked (State.keepsChain_allocating fun _ => State.keepsChain_setBank hid rfl rfl rfl)
  · rw [exec_agcrun, execAgcrun]
    exact State.keepsChain_checked (State.keepsChain_setBank hid rfl rfl rfl)

/-- The first command of a sequence that goes through completes, and so does the rest. -/
theorem State.inSequence_cons {u : State} {i : Instr} {rest : List Instr} (h : s.inSequence (i :: rest) = some u) :
    ∃ t, exec i s = .next t ∧ t.cr.status.code = 0 ∧ State.inSequence { t with a1 := t.r0 } rest = some u := by
  rw [State.inSequence] at h
  split at h
  · rename_i t ht
    split at h
    · rename_i hcode
      exact ⟨t, ht, hcode, h⟩
    · cases h
  · cases h

theorem State.inSequence_keepsChain {x : Bool} {u : State} {commands : List Instr}
    (hc : ∀ i ∈ commands, i ∈ [Instr.frac id, .demod id, .anrun id, .restore id, .agcrun x id]) (hid : id < s.nbanks)
    (h : s.inSequence commands = some u) : (u.bank id).chain = (s.bank id).chain := by
  induction commands generalizing s with
  | nil =>
    cases h
    rfl
  | cons i rest ih =>
    obtain ⟨t, ht, -, hrest⟩ := State.inSequence_cons h
    obtain ⟨hn, hchain⟩ := exec_keepsChain hid (hc i (by simp)) t ht
    exact (ih (fun j hj => hc j (by simp [hj])) (hn ▸ hid) hrest).trans hchain

/-- The commands of PIPERX after CHRUN, with or without FRAC and ANRUN, are among those. -/
theorem mem_commandsAfterChrun {id : Nat} {x : Bool} {a b : Prop} [Decidable a] [Decidable b] {i : Instr}
    (h : i ∈ (if a then [] else [.frac id]) ++ [.demod id] ++ (if b then [.anrun id] else []) ++ [.restore id, .agcrun x id]) :
    i ∈ [.frac id, .demod id, .anrun id, .restore id, .agcrun x id] := by
  split_ifs at h <;> simp only [List.mem_append, List.mem_cons, List.not_mem_nil, or_false, false_or] at h ⊢ <;> tauto

/-! ### CHRUN on a block that is not finite -/

theorem Err.code_ne_zero (e : Err) : e.code ≠ 0 := by cases e <;> decide

/-- The stages CHRUN leaves when it completes (R228); it keeps the number of banks. -/
theorem State.stages_of_chrun {t : State} (h : exec (.chrun id) s = .next t) (hid : id < s.nbanks) (hcode : t.cr.status.code = 0) :
    let r := s.runDec placeChain (s.bank id).chain.stages (s.input .cplx)
    (t.bank id).chain.stages = r.commit (anyNonFinite (s.input .cplx) || r.bad) ∧ t.nbanks = s.nbanks := by
  rw [exec_chrun, execChrun] at h
  dsimp only at h
  rcases State.checked_cases s _ _ with ⟨e, w, -, hraise⟩ | ⟨-, hpass⟩
  · cases hraise.symm.trans h
    exact absurd hcode e.code_ne_zero
  · cases hpass.symm.trans h
    exact ⟨congrArg (fun k : Bank => k.chain.stages) (State.bank_setBank_self _ hid), s.setBank_nbanks id _⟩

end

/-- The real part of the newest sample that the first stage of a bank's chain holds, when it is a half-band. -/
def newestHeld : List StageInst → Real64
  | .hb i :: _ => (i.at 0).re
  | _ => .zero

/-- A real half-band that took an input of a block that is not finite holds free values (R11). -/
theorem HBInst.at_freed {i : HBInst} (ser : Nat) (p : Place) {eaten : Nat} (he : eaten ≠ 0) (hv : i.variant = .real)
    (hw : i.win.length = 45) : ((i.freed ser p eaten).at 0).re = Config.freeReal ser (0 :: 0 :: p) := by
  cases hl : i.win with
  | nil => simp [hl] at hw
  | cons z w => simp [HBInst.freed, HBInst.at, he, hv, hl, freeSamples, allWritten, freeSample, Cplx.ofReal]

/-- CHRUN on a block with a sample that is not finite, through a single real half-band, which holds a free value afterwards. -/
theorem State.newestHeld_of_chrun {s t : State} {id : Nat} {i : HBInst} (h : exec (.chrun id) s = .next t) (hid : id < s.nbanks)
    (hcode : t.cr.status.code = 0) (hst : (s.bank id).chain.stages = [.hb i]) (hv : i.variant = .real) (hw : i.win.length = 45)
    (hn : s.opN ≠ 0) (hx : anyNonFinite (s.input .cplx) = true) :
    newestHeld (t.bank id).chain.stages = Config.freeReal s.draws (0 :: 0 :: 0 :: placeChain) := by
  obtain ⟨-, heaten, -, hwin, -, hvar⟩ := hbDec2_spec s.cfg.hb45 i (outputAs i.variant (s.input .cplx)) hw
  rw [(State.stages_of_chrun h hid hcode).1, hst, hx, Bool.true_or, Run.commit_true]
  refine HBInst.at_freed s.draws (0 :: placeChain) ?_ (hvar.trans hv) hwin
  rw [heaten, outputAs_length, State.input_length]
  exact hn

/-- After the commands of PIPERX with the blanker off, on such a block, the half-band holds a free value. -/
theorem State.newestHeld_of_commands {s u : State} {id : Nat} {i : HBInst} (hid : id < s.nbanks) (hb : s.BufferOk s.opN)
    (hoff : s.cr.nbLevel = 0) (hst : (s.bank id).chain.stages = [.hb i]) (hv : i.variant = .real) (hw : i.win.length = 45)
    (hn : s.opN ≠ 0) (hx : anyNonFinite (s.input .cplx) = true) {x : Bool} {rest : List Instr}
    (h : s.inSequence (.nbrun id :: .chrun id :: rest) = some u)
    (hc : ∀ i ∈ rest, i ∈ [Instr.frac id, .demod id, .anrun id, .restore id, .agcrun x id]) :
    newestHeld (u.bank id).chain.stages = Config.freeReal (s.draws + 1) (0 :: 0 :: 0 :: placeChain) := by
  obtain ⟨t, ht, -, h⟩ := State.inSequence_cons h
  cases (exec_nbrun_of_off hid hb hoff).symm.trans ht
  obtain ⟨w, hrun, hcode, h⟩ := State.inSequence_cons h
  have hbanks := (State.stages_of_chrun hrun hid hcode).2
  rw [State.inSequence_keepsChain hc (hbanks ▸ hid) h]
  exact State.newestHeld_of_chrun hrun hid hcode hst hv hw hn hx

/-! ### A state whose chain has a real stage -/

/-- The test configuration, but for a cosine of 2 at 0, which R12 does not exclude: the tuning shift doubles. -/
def doubling : Params := { Tc.params with num := { Tc.num with cos := [(.zero, .two)] } }

/-- Bank 0 in use with a real half-band as its chain, and one input sample: `v` in phase, the largest binary64 value in quadrature. -/
def realChain (v : Real64) : State :=
  { State.resetOf doubling 32 16 16 2 with
    a1 := 1
    cr := { agcMaxOut := .one, agcRelTime := .one, agcRelGain := .one }
    ct := some ⟨[.one]⟩ :: List.replicate 31 none
    sm := [(0, ⟨v, ⟨0x7FEFFFFFFFFFFFFF⟩⟩)]
    chans :=
      [ { bank :=
            { chain := { valid := true, stages := [.hb (.fresh .real)], achRate := .one },
              demod := { valid := true, mode := 9, inRate := .one, rxf := .fresh .cplx 0 1 },
              agc := .fresh .one .one 1 false } },
        {} ] }

/-- What the commands of PIPERX start from (R402, R403). -/
def realStart (v : Real64) : State :=
  let s := realChain v
  { s.setBank 0 { s.bank 0 with mix := mixAfter (s.mixInc 0 48000) (s.bank 0).mix s.opN } with
    sm := s.sm.writeBlock s.op2 (s.tunedBlock 0 48000), a0 := s.a2, a2 := ((s.bank 0).chain.achRate.div (s.bank 0).demod.inRate).bits }

/-- PIPERX runs on the state and reads only finite values, and the block its commands get holds another one. -/
def Exposes (v : Real64) : Prop :=
  let s := realChain v
  s.sm.wf = true ∧ s.configOk = true ∧ (∀ c ∈ s.pipeChecks 0, c.ok = true) ∧ s.PipeFinite 0 ∧
    anyNonFinite ((realStart v).input .cplx) = true

/-- Were PIPERX its commands, its half-band would hold that value too. -/
theorem newestHeld_of_piperx (h : Obligations.PiperxIsItsCommands) {v : Real64} (hv : Exposes v) :
    newestHeld ((realChain v).rxChain 0 48000).st = Config.freeReal 1 (0 :: 0 :: 0 :: placeChain) := by
  obtain ⟨hwf, hcfg, hchecks, hfin, hx⟩ := hv
  obtain ⟨t, u, ht, hu, -, -, hbank, -⟩ := h (realChain v) 0 48000 hwf hcfg hchecks rfl rfl hfin rfl rfl rfl nofun rfl (.inr rfl) nofun
    (fun hf => absurd hf (by decide +kernel : ¬Real64.one.eqv .one = false)) (fun hn => absurd hn.2.1 Bool.false_ne_true)
  have hcommands := State.newestHeld_of_commands (s := realStart v) (x := decide (((realChain v).latchedMode 0).kind = .digRaw))
    Nat.zero_lt_two ⟨(by decide : 1 ≤ 65536), (by decide : 0 + 1 ≤ 1048576)⟩ rfl rfl rfl rfl Nat.one_ne_zero hx hu
    (fun _ => mem_commandsAfterChrun)
  cases (exec_piperx_of_ready hchecks rfl).symm.trans ht
  rw [State.bank_piperxDone_of_finite rfl hfin Nat.zero_lt_two] at hbank
  exact (congrArg (fun k : Bank => newestHeld k.chain.stages) hbank).trans hcommands

theorem exposes_one : Exposes .one := by unfold Exposes State.PipeFinite; decide +kernel
theorem exposes_two : Exposes .two := by unfold Exposes State.PipeFinite; decide +kernel

/-- Refutes O59: in the state for 1 and in the state for 2 PIPERX leaves different samples in the half-band, where the commands leave
the same free value. -/
theorem not_piperxIsItsCommands : ¬ Obligations.PiperxIsItsCommands := by
  intro h
  have heq := (newestHeld_of_piperx h exposes_one).trans (newestHeld_of_piperx h exposes_two).symm
  exact absurd heq (by decide +kernel)

end Sys2Proof.Machine
end

section
/-! PROOFS. What every command does, in one form (spec/60_exceptions.md R443 to R446, R450): its checks in order, whether it consults the
oracle, and its effect: what it puts in the place of the instance or bank its `ID` names, the control registers, and the samples it
stores from its base on. -/

namespace Sys2Proof.Machine

/-! ### Effects -/

/-- What a command puts in the place of what its `ID` names (R122). -/
inductive Put where
  | nothing
  | filter (f : FilterInst)
  | half (h : HBInst)
  | bank (k : Bank) (achRate : Real64)

/-- What a command does when it completes; `cr` are the control registers before its end writes `STATUS` and `XRUN_CNT`. -/
structure Effect where
  put : Put
  cr : CtrlRegs
  base : Nat := 0
  out : List Cplx := []
  r0 : Word64 := 0
  r1 : Word64 := 0
  truncs : Nat := 0

/-- The state with a component in the place that `id` names. -/
def State.placed (s : State) (id : Nat) : Put → State
  | .nothing => s
  | .filter f => s.setFilter id f
  | .half h => s.setHalf id h
  | .bank k r => { s with chans := s.chans.set id { s.chan id with bank := k, achRate := r } }

/-- The state after an effect on what `id` names. -/
def State.affected (s : State) (id : Nat) (e : Effect) : State :=
  { s.placed id e.put with cr := e.cr, sm := s.sm.writeBlock e.base e.out }.finish e.r0 e.r1 e.truncs

/-- A command that puts a bank, whose achieved rate it keeps. -/
def State.keptRate (s : State) (id : Nat) (k : Bank) : Put := .bank k (s.chan id).achRate

/-- The effect of a command on a buffer (R87). -/
def Effect.buffer (put : Put) (cr : CtrlRegs) (base : Nat) (out : List Cplx) (truncs : Nat) : Effect :=
  { put := put, cr := cr, base := base, out := out, r0 := BitVec.ofNat 64 out.length, truncs := truncs }

/-- The effect of a filtering command whose run is `r`. -/
def State.filterEffect (s : State) (r : Run FilterInst) : Effect :=
  .buffer (.filter (r.commit r.bad)) s.cr s.opA (emitted s.draws r.st.variant r.bad r.out) (bit r.trunc)

/-- The effect of a half-band command whose run is `r`. -/
def State.halfEffect (s : State) (r : Run HBInst) : Effect :=
  .buffer (.half (r.commit r.bad)) s.cr s.opA (s.halfOut r) (bit r.trunc)

section
variable (s : State) (id : Nat)

/-! ### The runs of the commands -/

/-- The run of FDECIM on its filter and its block. -/
def State.fdecimRun : Run FilterInst :=
  let f := s.filter id
  let x := s.input f.variant
  firRun s.draws placeFilter f x (firDecim (s.coefs f) s.op2 f x)

/-- The run of FINTERP on its filter and its block. -/
def State.finterpRun : Run FilterInst :=
  let f := s.filter id
  let x := s.input f.variant
  firRun s.draws placeFilter (f.grown s.opN) x (firInterp (s.coefs f) s.op2 s.cfg.maxBlock (f.grown s.opN) x)

/-- The run of FRESAMP on its filter and its block. -/
def State.fresampRun : Run FilterInst :=
  let f := s.filter id
  let x := s.input f.variant
  firRun s.draws placeFilter (f.grown s.opN) x (firResamp (s.coefs f) s.op2 s.op3 s.cfg.maxBlock (f.grown s.opN) x)

/-- The run of CHRUN on its chain and its block. -/
def State.chrunRun : Run (List StageInst) := s.runDec placeChain (s.bank id).chain.stages (s.input .cplx)

/-- CHRUN reads a value that is not finite: one of its block, or one a stage reads. -/
def State.chrunBad : Bool := anyNonFinite (s.input .cplx) || (s.chrunRun id).bad

/-- The run of DEMOD on its bank and its block. -/
def State.demodRun : Run DemodState :=
  s.runDemod (s.bankRegs id) (s.bank id).demod (min s.cfg.maxBlock s.opN) (s.input .cplx)

/-- The sample type of the audio of the mode a bank latched. -/
def State.audioType : Variant := audioOf (s.cfg.modeRec (s.bank id).demod.mode).kind

/-- The run of RESTORE on its bank and its block. -/
def State.restoreRun : Run DemodState := s.runRestore (s.bank id).demod (s.input (s.audioType id))

/-- The run of ANRUN on its bank and its block. -/
def State.notchRun : Run NotchState := s.runNotch (s.bank id).notch (s.input .real)

/-- The cascade CHSEL selects. -/
def State.selectedStages (w : Bool) : List StageDesc := ((s.selected w).map Prod.snd).getD []

/-- The rate CHSEL achieves. -/
def State.selectedRate (w : Bool) : Real64 := achievedRate (((s.selected w).map Prod.fst).getD 0) (s.selectedStages w)

/-- The length of the look-ahead AGCINIT builds. -/
def State.agcInitLen : Option Int := Params.agcLen s.cfg s.opReal

/-- The length of the delay line NBINIT builds. -/
def State.nbInitLen : Option Int := Params.nbLen s.cfg ((s.cfg.rateHz s.cr.rateIn.toNat).getD 0)

end

/-! ### What each command checks, allocates and does -/

/-- The checks of a command in their order (R450). -/
def commandChecks (i : Instr) (s : State) : List Check :=
  match i with
  | .nop _ => []
  | .finit _ id =>
    [ idCheck id s.nfilt, ⟨decide (s.opA < s.ntab), .param, 0⟩, ⟨decide (1 ≤ s.opN ∧ s.opN ≤ s.cfg.maxTaps), .param, 0⟩,
      s.slotCheck s.opA, ⟨(s.table s.opA).any fun t => t.val.length = s.opN, .param, 0⟩ ]
  | .ftune _ id =>
    [ idCheck id s.nfilt, finiteCheck s.opReal, boundCheck (s.filter id).bound id, s.tableCheck (s.filter id),
      ⟨decide ((s.filter id).variant = .cplx), .param, 0⟩ ]
  | .fapply id => s.filterChecks id (extentSame s.opN) []
  | .fdecim id =>
    s.filterChecks id (extentSame s.opN) [s.ratioCheck s.op2] ++ [⟨decide ((s.filter id).phase < s.op2), .param, 0⟩]
  | .finterp id => s.filterChecks id (s.extentUp s.opN (s.opN * s.op2)) [s.ratioCheck s.op2]
  | .fresamp id =>
    s.filterChecks id (s.extentUp s.opN ((s.opN * s.op2 + (s.op3 - 1)) / s.op3 + 1)) [s.ratioCheck s.op2, s.ratioCheck s.op3]
  | .hbinit _ id => [idCheck id s.nhb]
  | .hbdec2 id => s.halfChecks id (extentSame s.opN)
  | .hbint2 id => s.halfChecks id (s.extentUp s.opN (2 * s.opN))
  | .chsel w id =>
    [idCheck id s.nbanks, ⟨(s.selected w).isSome, .rate, s.cr.rateIn.setWidth 64⟩] ++ s.descChecks (s.selectedStages w)
  | .chrun id =>
    s.bankBufChecks id (extentSame s.opN) ++ [boundCheck (s.bank id).chain.valid id] ++ s.stageChecks (s.bank id).chain.stages
  | .frac id =>
    [idCheck id s.nbanks, s.sizeCheck, finiteCheck s.opStep, s.boundsCheck s.a0 s.fracExtent, stepCheck s.opStep]
  | .dminit id =>
    let c := s.bankRegs id
    let m := c.mode.toNat
    let dec := (s.requestedMode id).decList s.opReal
    let int := s.cfg.intList (s.requestedMode id)
    [ idCheck id s.nbanks, ⟨s.opReal.isPos, .param, 0⟩, ⟨decide (m ≤ 12), .param, 0⟩,
      ⟨decide ((s.requestedMode id).kind ≠ .noSemantics), .unsupported, modeInfo m⟩,
      ⟨decide ((s.requestedMode id).kind ≠ .dv) || s.cfg.codec, .unsupported, modeInfo m⟩,
      ⟨dec.isSome, .param, 0⟩, ⟨int.isSome, .param, 0⟩, ⟨decide (c.rxfTab.toNat < s.ntab), .param, 0⟩,
      s.slotCheck c.rxfTab.toNat ] ++
      s.descChecks (dec.getD []) ++ s.descChecks (int.getD []) ++ [finiteCheck c.rxfFreq]
  | .demod id =>
    s.bankBufChecks id (extentSame s.opN) ++ [boundCheck (s.bank id).demod.valid id] ++
      s.demodChecks (s.bank id).demod (s.bankRegs id)
  | .restore id =>
    s.bankBufChecks id (s.extentUp s.opN (s.opN * stagesRatio (s.bank id).demod.int)) ++
      [boundCheck (s.bank id).demod.valid id] ++ s.stageChecks (s.bank id).demod.int
  | .modinit id =>
    let m := (s.bankRegs id).mode.toNat
    [idCheck id s.nbanks, ⟨decide (m ≤ 12), .param, 0⟩, ⟨s.cfg.txBundle, .unsupported, modeInfo m⟩]
  | .mod id => s.bankBufChecks id s.cfg.maxBlock ++ [boundCheck (s.bank id).tx.valid id]
  | .agcinit _ id =>
    [ idCheck id s.nbanks, posCheck s.opReal, posCheck s.cr.agcRelGain,
      ⟨s.agcInitLen.any fun l => 1 ≤ l ∧ l ≤ (s.cfg.maxBlock : Int), .param, 0⟩ ]
  | .agcrun _ id =>
    [idCheck id s.nbanks, s.sizeCheck, s.boundsCheck s.a0 (extentSame s.opN), boundCheck (s.bank id).agc.valid id] ++
      s.agcChecks
  | .nbinit id =>
    [ idCheck id s.nbanks, ⟨(s.cfg.rateHz s.cr.rateIn.toNat).isSome, .rate, s.cr.rateIn.setWidth 64⟩,
      ⟨s.nbInitLen.any fun l => 2 ≤ l ∧ l ≤ (s.cfg.maxBlock : Int), .param, 0⟩ ]
  | .nbrun id =>
    [ idCheck id s.nbanks, s.sizeCheck, s.boundsCheck s.a0 (extentSame s.opN),
      boundCheck (decide (s.cr.nbLevel = 0) || (s.bank id).nb.valid) id ]
  | .aninit id => [idCheck id s.nbanks, primaryCheck id, posCheck s.opReal]
  | .anrun id =>
    [ idCheck id s.nbanks, s.sizeCheck, s.boundsCheck s.a0 (min (s.opN + s.cfg.anB - 1) s.cfg.maxBlock), primaryCheck id,
      boundCheck (s.bank id).notch.valid id ]
  | .piperx id => s.pipeChecks id
  | .bkfree id => [idCheck id s.nbanks]

/-- Whether a command consults the oracle once its checks hold (R446; log 15). -/
def commandNeeds (i : Instr) (s : State) : Bool :=
  match i with
  | .finit _ _ | .ftune _ _ | .chsel _ _ | .dminit _ | .agcinit _ _ | .nbinit _ | .aninit _ => true
  | .finterp id | .fresamp id => (s.filter id).growsFor s.opN
  | .demod id => (s.bank id).demod.stale (s.bankRegs id)
  | .restore id => s.stagesGrow placeRestore (s.bank id).demod.int (s.input (s.audioType id))
  | .piperx id => s.pipeNeeds id
  | _ => false

/-- The effect of a command whose checks hold. -/
def commandEffect (i : Instr) (s : State) : Effect :=
  match i with
  | .nop _ => { put := .nothing, cr := s.cr }
  | .finit v _ => { put := .filter (.fresh (if v then .real else .cplx) s.opA s.opN), cr := s.cr }
  | .ftune l id =>
    { put := .filter { s.filter id with tuned := some (s.tunedFor (s.filter id) l) }, cr := s.cr }
  | .fapply id => s.filterEffect (s.fapplyRun id)
  | .fdecim id => s.filterEffect (s.fdecimRun id)
  | .finterp id => s.filterEffect (s.finterpRun id)
  | .fresamp id => s.filterEffect (s.fresampRun id)
  | .hbinit v _ => { put := .half (.fresh (if v then .real else .cplx)), cr := s.cr }
  | .hbdec2 id => s.halfEffect (s.hbdec2Run id)
  | .hbint2 id => s.halfEffect (s.hbint2Run id)
  | .chsel w id =>
    let rate := s.selectedRate w
    { put := .bank { s.bank id with chain := s.builtChain w (s.selectedStages w) rate, frac := {} } rate, cr := s.cr,
      r1 := rate.bits }
  | .chrun id =>
    let r := s.chrunRun id
    let c := (s.bank id).chain
    .buffer (s.keptRate id { s.bank id with chain := { c with stages := r.commit (s.chrunBad id) } }) s.cr s.opA
      (emitted s.draws .cplx (s.chrunBad id) r.out) 0
  | .frac id =>
    let r := s.fracRun id
    .buffer (s.keptRate id { s.bank id with frac := r.commit r.bad }) s.cr s.opA (emitted s.draws .cplx r.bad r.out)
      (bit r.trunc)
  | .dminit id => { put := s.keptRate id { s.bank id with demod := s.installedDemod id }, cr := s.cr }
  | .demod id =>
    let r := s.demodRun id
    .buffer (s.keptRate id { s.bank id with demod := r.commit r.bad }) s.cr s.opA
      (emitted s.draws (s.audioType id) r.bad r.out) 0
  | .restore id =>
    let r := s.restoreRun id
    .buffer (s.keptRate id { s.bank id with demod := r.commit r.bad }) s.cr s.opA
      (emitted s.draws (s.audioType id) r.bad r.out) (bit r.trunc)
  | .modinit id =>
    let m := (s.bankRegs id).mode.toNat
    { put := s.keptRate id { s.bank id with tx := { valid := true, mode := m, adapter := Config.txInit m } }, cr := s.cr }
  | .mod id =>
    .buffer (s.keptRate id { s.bank id with tx := s.modTx id }) s.cr s.opA (s.modOut id)
      (bit (decide (s.cfg.maxBlock < s.modCount id)))
  | .agcinit f id =>
    { put := s.keptRate id
        { s.bank id with agc := .fresh s.opReal s.cr.agcRelGain (s.agcInitLen.getD 0).toNat f },
      cr := s.cr }
  | .agcrun x id =>
    let r := s.agcRun x id
    let g := r.commit r.bad
    .buffer (s.keptRate id { s.bank id with agc := g }) (s.cr.afterAgc id r.clamped g.gain) s.opA
      (emitted s.draws (agcVariant x) r.bad r.out) 0
  | .nbinit id => { put := s.keptRate id { s.bank id with nb := .fresh (s.nbInitLen.getD 0).toNat }, cr := s.cr }
  | .nbrun id =>
    if s.cr.nbLevel = 0 then { put := .nothing, cr := s.cr, base := s.opA, r0 := s.a1 }
    else
      let r := s.nbRun id
      .buffer (s.keptRate id { s.bank id with nb := r.commit r.bad }) s.cr s.opA (emitted s.draws .cplx r.bad r.out) 0
  | .aninit id =>
    let t := NotchState.fresh s.cfg s.opReal
    { put := s.keptRate id { s.bank id with notch := t }, cr := s.cr.showNotch t }
  | .anrun id =>
    let r := s.notchRun id
    let t := r.commit r.bad
    .buffer (s.keptRate id { s.bank id with notch := t }) (s.cr.showNotch t) s.opA (emitted s.draws .real r.bad r.out)
      (bit r.trunc)
  | .piperx id =>
    let p := s.pipe id
    .buffer (s.keptRate id (if p.bad then p.bankFreed else p.bank)) (if p.bad then p.crFreed else p.cr) s.op2
      (emitted s.draws .cplx p.bad p.x) p.truncs
  | .bkfree id => { put := .bank {} .zero, cr := s.cr.freeNotch id }

/-- Setting a bank and its achieved rate is putting both. -/
theorem State.setAchRate_setBank (s : State) (id : Nat) (k : Bank) (r : Real64) :
    (s.setBank id k).setAchRate id r = s.placed id (.bank k r) := by
  by_cases h : id < s.chans.length
  · simp [State.setAchRate, State.setBank, State.placed, State.chan, h]
  · simp [State.setAchRate, State.setBank, State.placed, List.set_eq_of_length_le (Nat.le_of_not_lt h)]

theorem State.checked_congr {s : State} {cs : List Check} {k k' : State → Res} (h : k s = k' s) :
    s.checked cs k = s.checked cs k' := by
  unfold State.checked
  rw [h]

theorem State.allocating_congr {s : State} {need : Bool} {k k' : State → Res} (h : k s = k' s)
    (hc : k s.consulted = k' s.consulted) : s.allocating need k = s.allocating need k' := by
  unfold State.allocating
  rw [h, hc]

/-- What CHSEL does (R224). -/
theorem State.finish_setAchRate (s : State) (id : Nat) (k : Bank) (rate : Real64) :
    ((s.setBank id k).setAchRate id rate).finish 0 rate.bits 0 =
      s.affected id { put := .bank k rate, cr := s.cr, r1 := rate.bits } := by
  rw [State.setAchRate_setBank]
  rfl

/-- What NBRUN does, with the blanker off or on (R336). -/
theorem next_affected_nbrun (s : State) (id : Nat) :
    (if decide (s.cr.nbLevel = 0) then .next (s.finish s.a1 0 0) else .next (s.nbDone id)) =
      (.next (s.affected id (commandEffect (.nbrun id) s)) : Res) := by
  dsimp only [commandEffect]
  by_cases hoff : s.cr.nbLevel = 0
  · simp only [hoff, decide_true, if_true]
    rfl
  · simp only [hoff, decide_false, if_false, Bool.false_eq_true]
    rfl

/-- Every command makes its checks, consults the oracle when it needs to, and has its effect (R446, R450). -/
theorem exec_eq (i : Instr) (s : State) : exec i s =
    s.checked (commandChecks i s) fun s =>
      s.allocating (commandNeeds i s) fun s => .next (s.affected i.id (commandEffect i s)) := by
  cases i
  case nop => rfl
  case chsel =>
    dsimp only [exec, execChsel, commandNeeds, commandEffect]
    refine State.checked_congr (State.allocating_congr ?_ ?_) <;>
    exact congrArg Host.Outcome.next (State.finish_setAchRate ..)
  case bkfree id =>
    dsimp only [exec, execBkfree, commandChecks, commandNeeds, commandEffect]
    simp only [State.setAchRate_setBank]
    exact State.checked_congr rfl
  case nbrun id =>
    dsimp only [exec, execNbrun, commandNeeds]
    exact State.checked_congr (next_affected_nbrun s id)
  case mod =>
    dsimp only [exec, execMod, commandChecks, commandNeeds, commandEffect, State.modOut, State.modTx, State.modBaseband]
    simp only [← State.input_real_re]
    exact State.checked_congr rfl
  case finit | ftune | finterp | fresamp | dminit | demod | restore | agcinit | nbinit | aninit | piperx =>
    dsimp only [exec, execFinit, execFtune, execFinterp, execFresamp, execDminit, execDemod, execRestore, execAgcinit,
      execNbinit, execAninit, execPiperx, commandChecks, commandNeeds, commandEffect]
    exact State.checked_congr (State.allocating_congr rfl rfl)
  case fapply | fdecim | hbinit | hbdec2 | hbint2 | chrun | frac | modinit | agcrun | anrun =>
    dsimp only [exec, execFapply, execFdecim, execHbinit, execHbdec2, execHbint2, execChrun, execFrac, execModinit, execAgcrun,
      execAnrun, commandChecks, commandNeeds, commandEffect]
    exact State.checked_congr rfl

/-! ### The oracle's answers -/

/-- Whether a scratch buffer grows depends on the state through the stages' runs only (R175). -/
theorem State.stagesGrow_congr {s u : State} (h : u.intStage = s.intStage) (p : Place) (st : List StageInst) (x : List Cplx) :
    u.stagesGrow p st x = s.stagesGrow p st x := by
  induction st generalizing x with
  | nil => rfl
  | cons k rest ih =>
    simp only [State.stagesGrow, h]
    rw [ih]

section
variable (i : Instr) (s : State) (answers : List Bool)

/-- A command reads nothing of the oracle's answers (R446). -/
theorem commandChecks_allocs : commandChecks i { s with allocs := answers } = commandChecks i s := by cases i <;> rfl

theorem commandNeeds_allocs : commandNeeds i { s with allocs := answers } = commandNeeds i s := by
  have hgrow (st : List StageInst) (x : List Cplx) :
      State.stagesGrow { s with allocs := answers } placeRestore st x = s.stagesGrow placeRestore st x :=
    State.stagesGrow_congr (s := s) (u := { s with allocs := answers }) rfl placeRestore st x
  cases i
  case restore => exact hgrow _ _
  case piperx id => exact congrArg ((s.bank id).demod.stale (s.bankRegs id) || ·) (hgrow _ _)
  all_goals rfl

theorem commandEffect_allocs : commandEffect i { s with allocs := answers } = commandEffect i s := by cases i <;> rfl

theorem State.affected_allocs (id : Nat) (e : Effect) :
    State.affected { s with allocs := answers } id e = { s.affected id e with allocs := answers } := by
  obtain ⟨put, _, _, _, _, _, _⟩ := e
  cases put <;> rfl

end

/-! ### How every command ends -/

/-- The state a command leaves when it completes. -/
def State.done (s : State) (i : Instr) : State :=
  { s.affected i.id (commandEffect i s) with allocs := if commandNeeds i s then s.allocs.tail else s.allocs }

/-- The states a command can end in (R443, R446, R450). -/
inductive State.EndsAs (s : State) (i : Instr) : State → Prop
  | refused (e : Err) (w : Word64) (h : firstFail (commandChecks i s) = some (e, w)) : s.EndsAs i (s.raise e w)
  | starved (h : ∀ c ∈ commandChecks i s, c.ok = true) (hneeds : commandNeeds i s = true) (hno : s.allocOk = false) :
    s.EndsAs i (s.consulted.raise .alloc 0)
  | completed (h : ∀ c ∈ commandChecks i s, c.ok = true) (hyes : commandNeeds i s = true → s.allocOk = true) :
    s.EndsAs i (s.done i)

theorem exec_of_refused {i : Instr} {s : State} {e : Err} {w : Word64} (h : firstFail (commandChecks i s) = some (e, w)) :
    exec i s = .next (s.raise e w) :=
  (exec_eq i s).trans (State.checked_fail h)

theorem exec_of_checks {i : Instr} {s : State} (h : ∀ c ∈ commandChecks i s, c.ok = true)
    (hyes : commandNeeds i s = true → s.allocOk = true) : exec i s = .next (s.done i) := by
  have haff (answers : List Bool) : State.affected { s with allocs := answers } i.id (commandEffect i { s with allocs := answers }) =
      { s.affected i.id (commandEffect i s) with allocs := answers } := by
    rw [commandEffect_allocs, State.affected_allocs]
  rw [exec_eq, State.checked_pass h, State.allocating_pass hyes, State.done]
  cases commandNeeds i s
  · exact congrArg Host.Outcome.next (haff s.allocs)
  · exact congrArg Host.Outcome.next (haff s.allocs.tail)

theorem exec_of_starved {i : Instr} {s : State} (h : ∀ c ∈ commandChecks i s, c.ok = true)
    (hneeds : commandNeeds i s = true) (hno : s.allocOk = false) : exec i s = .next (s.consulted.raise .alloc 0) := by
  rw [exec_eq, State.checked_pass h, State.allocating, hneeds, hno]
  rfl

/-- A command ends in one of these ways. -/
theorem exec_endsAs {i : Instr} {s t : State} (h : exec i s = .next t) : s.EndsAs i t := by
  cases hf : firstFail (commandChecks i s) with
  | some p =>
    cases (exec_of_refused hf).symm.trans h
    exact .refused p.1 p.2 hf
  | none =>
    have hc := (firstFail_eq_none _).mp hf
    by_cases hno : commandNeeds i s = true ∧ s.allocOk = false
    · cases (exec_of_starved hc hno.1 hno.2).symm.trans h
      exact .starved hc hno.1 hno.2
    · have hyes : commandNeeds i s = true → s.allocOk = true := fun hn => by simpa [hn] using hno
      cases (exec_of_checks hc hyes).symm.trans h
      exact .completed hc hyes

end Sys2Proof.Machine
end

section
/-! PROOFS. What no command changes, and what a command changes by what its `ID` names (spec/10_state.md R21, R23, R29, R40). -/

namespace Sys2Proof.Machine

/-! ### The fields of the state a command leaves -/

section
variable (s : State) (id : Nat) (e : Effect)

@[simp] theorem State.affected_a0 : (s.affected id e).a0 = s.a0 := by obtain ⟨put⟩ := e; cases put <;> rfl
@[simp] theorem State.affected_a1 : (s.affected id e).a1 = s.a1 := by obtain ⟨put⟩ := e; cases put <;> rfl
@[simp] theorem State.affected_a2 : (s.affected id e).a2 = s.a2 := by obtain ⟨put⟩ := e; cases put <;> rfl
@[simp] theorem State.affected_a3 : (s.affected id e).a3 = s.a3 := by obtain ⟨put⟩ := e; cases put <;> rfl
@[simp] theorem State.affected_ct : (s.affected id e).ct = s.ct := by obtain ⟨put⟩ := e; cases put <;> rfl
@[simp] theorem State.affected_cfg : (s.affected id e).cfg = s.cfg := by obtain ⟨put⟩ := e; cases put <;> rfl
@[simp] theorem State.affected_host : (s.affected id e).host = s.host := by obtain ⟨put⟩ := e; cases put <;> rfl
@[simp] theorem State.affected_reply : (s.affected id e).reply = s.reply := by obtain ⟨put⟩ := e; cases put <;> rfl
@[simp] theorem State.affected_r0 : (s.affected id e).r0 = e.r0 := rfl
@[simp] theorem State.affected_r1 : (s.affected id e).r1 = e.r1 := rfl
@[simp] theorem State.affected_sm : (s.affected id e).sm = s.sm.writeBlock e.base e.out := rfl
@[simp] theorem State.affected_fi : (s.affected id e).fi = (s.placed id e.put).fi := rfl
@[simp] theorem State.affected_hb : (s.affected id e).hb = (s.placed id e.put).hb := rfl
@[simp] theorem State.affected_chans : (s.affected id e).chans = (s.placed id e.put).chans := rfl
@[simp] theorem State.affected_filter (j : Nat) : (s.affected id e).filter j = (s.placed id e.put).filter j := rfl
@[simp] theorem State.affected_half (j : Nat) : (s.affected id e).half j = (s.placed id e.put).half j := rfl
@[simp] theorem State.affected_chan (j : Nat) : (s.affected id e).chan j = (s.placed id e.put).chan j := rfl
@[simp] theorem State.affected_bank (j : Nat) : (s.affected id e).bank j = (s.placed id e.put).bank j := rfl
@[simp] theorem State.affected_cr : (s.affected id e).cr =
    { e.cr with status := .ofTrunc (decide (e.truncs ≠ 0)), xrunCnt := e.cr.xrunCnt + BitVec.ofNat 32 e.truncs } := rfl

end

/-! ### What an effect puts in its place -/

/-- What a put replaces. -/
def Put.kind : Put → IdKind
  | .nothing => .ignored
  | .filter _ => .filter
  | .half _ => .half
  | .bank _ _ => .bank

/-- A command puts nothing, or what its `ID` names (R122). -/
theorem commandEffect_kind (i : Instr) (s : State) :
    (commandEffect i s).put.kind = .ignored ∨ (commandEffect i s).put.kind = idKind i := by
  cases i
  case nbrun =>
    dsimp only [commandEffect]
    split
    · exact .inl rfl
    · exact .inr rfl
  all_goals exact .inr rfl

section
variable {s : State} {id : Nat} {p : Put}

theorem State.placed_fi (h : p.kind ≠ .filter) : (s.placed id p).fi = s.fi := by
  cases p
  case filter => exact absurd rfl h
  all_goals rfl

theorem State.placed_hb (h : p.kind ≠ .half) : (s.placed id p).hb = s.hb := by
  cases p
  case half => exact absurd rfl h
  all_goals rfl

theorem State.placed_chans (h : p.kind ≠ .bank) : (s.placed id p).chans = s.chans := by
  cases p
  case bank => exact absurd rfl h
  all_goals rfl

/-- A bank and its achieved rate read back as they were put. -/
theorem State.chan_placed_bank (k : Bank) (r : Real64) (h : id < s.nbanks) :
    (s.placed id (.bank k r)).chan id = { s.chan id with bank := k, achRate := r } := by
  have h' : id < s.chans.length := h
  simp [State.placed, State.chan, h']

/-- What another `ID` names stays (R29). -/
theorem State.placed_ne {j : Nat} (h : j ≠ id) : (s.placed id p).filter j = s.filter j ∧
    (s.placed id p).half j = s.half j ∧ (s.placed id p).chan j = s.chan j := by
  cases p with
  | nothing => exact ⟨rfl, rfl, rfl⟩
  | filter f => exact ⟨s.filter_setFilter_ne id j f h, rfl, rfl⟩
  | half x => exact ⟨rfl, s.half_setHalf_ne id j x h, rfl⟩
  | bank k r => exact ⟨rfl, rfl, by simp [State.placed, State.chan, Ne.symm h]⟩

@[simp] theorem State.placed_lengths : (s.placed id p).fi.length = s.fi.length ∧ (s.placed id p).hb.length = s.hb.length ∧
    (s.placed id p).chans.length = s.chans.length := by
  cases p <;> simp [State.placed]

/-- A bank's configuration registers survive (R55). -/
theorem State.bankRegs_placed (b : Nat) : (s.placed id p).bankRegs b = s.bankRegs b := by
  cases p with
  | bank k r =>
    by_cases hb : b = id
    · subst hb
      by_cases h : b < s.nbanks
      · rw [State.bankRegs, State.chan_placed_bank k r h]
        rfl
      · simp [State.bankRegs, State.placed, State.chan, List.set_eq_of_length_le (Nat.le_of_not_lt h)]
    · rw [State.bankRegs, (State.placed_ne hb).2.2]
      rfl
  | _ => rfl

end

/-! ### Control registers -/

/-- Registers that agree with `d` but for `STATUS` and telemetry keep the configuration when `d` does. -/
theorem CtrlRegs.KeepsConfiguration.trans {c d e : CtrlRegs} (h : c.KeepsConfiguration d) (h' : d.KeepsConfiguration e) :
    c.KeepsConfiguration e := by
  unfold CtrlRegs.KeepsConfiguration at *
  rw [h', h]

/-- A working copy's control registers keep the configuration, freed or not. -/
def State.ConfigurationKept (s : State) (p : Pipe) : Prop :=
  s.cr.KeepsConfiguration p.cr ∧ s.cr.KeepsConfiguration p.crFreed

/-- No stage of the pipeline writes a configuration register (R40, R401). -/
theorem State.pipe_configuration (s : State) (id : Nat) : s.ConfigurationKept (s.pipe id) := by
  refine State.pipe_induction (P := s.ConfigurationKept) ⟨rfl, rfl⟩ (fun p h => h) (fun p h => ?_) (fun p h => h)
    (fun p h => ?_) (fun p h => ?_) (fun cx p h => ⟨h.1.trans rfl, h.2.trans rfl⟩) (fun p h => h) (fun p h => ?_)
    (fun p h => h) (fun sig p h => ?_) (fun p h => ?_) (fun p h => h) _
  · unfold State.pipeBlank; split <;> exact h
  · unfold State.pipeFrac; split <;> exact h
  · unfold State.pipeSmeter; split
    · exact ⟨h.1.trans rfl, h.2.trans rfl⟩
    · exact h
  · unfold State.pipeNotch; split
    · exact ⟨h.1.trans rfl, h.2.trans rfl⟩
    · exact h
  · unfold State.pipeSquelch; split <;> exact h
  · unfold State.pipeRms; split
    · exact ⟨h.1.trans rfl, h.2.trans rfl⟩
    · exact h

theorem commandEffect_cr (i : Instr) (s : State) : s.cr.KeepsConfiguration (commandEffect i s).cr := by
  cases i
  case nbrun => dsimp only [commandEffect]; split <;> rfl
  case piperx id =>
    dsimp only [commandEffect, Effect.buffer]
    split
    · exact (s.pipe_configuration id).2
    · exact (s.pipe_configuration id).1
  case bkfree id => dsimp only [commandEffect, CtrlRegs.freeNotch]; split <;> rfl
  all_goals rfl

/-! ### Noninterference -/

/-- Settles O14: an error writes `STATUS` and a counter, and no effect touches what the host writes. -/
theorem commandsKeepTheHostsState : Obligations.CommandsKeepTheHostsState := by
  intro i s t h
  cases exec_endsAs h with
  | refused | starved => exact ⟨rfl, rfl, rfl, rfl, rfl, rfl, fun _ => rfl⟩
  | completed =>
    refine ⟨s.affected_a0 .., s.affected_a1 .., s.affected_a2 .., s.affected_a3 .., s.affected_ct .., ?_, fun b => ?_⟩
    · exact (commandEffect_cr i s).trans rfl
    · exact State.bankRegs_placed b

/-- Settles O15: an effect puts only what the command's `ID` names. -/
theorem commandsKeepOthersState : Obligations.CommandsKeepOthersState := by
  intro i s t h
  cases exec_endsAs h with
  | refused | starved => exact ⟨fun _ => rfl, fun _ => rfl, fun _ => rfl, fun _ _ => ⟨rfl, rfl, rfl⟩⟩
  | completed =>
    have hkind {k : IdKind} (hk : idKind i ≠ k) (hk0 : k ≠ .ignored) : (commandEffect i s).put.kind ≠ k := by
      rcases commandEffect_kind i s with h | h
      · exact h ▸ Ne.symm hk0
      · exact h ▸ hk
    exact ⟨fun hk => State.placed_fi (hkind hk (by decide)), fun hk => State.placed_hb (hkind hk (by decide)),
      fun hk => State.placed_chans (hkind hk (by decide)), fun j hj => State.placed_ne hj⟩

end Sys2Proof.Machine
end

section
/-! PROOFS. Where a command stores (spec/20_memory.md R86, R87): each command's base and extent, which its checks hold within memory,
and that it makes no more samples than its extent. So no step lists a cell that does not exist (R37). -/

namespace Sys2Proof.Machine

/-! ### The samples a loop makes, against the inputs it gets -/

/-- The number of outputs FRESAMP makes of `c` inputs from a phase on (R174). -/
def resampMade (interp decim phase c : Nat) : Nat := (c * interp - phase + (decim - 1)) / decim

theorem resampCount_eq (phase interp decim : Nat) (hd : 1 ≤ decim) : resampCount phase interp decim = resampMade interp decim phase 1 := by
  rw [resampCount, resampMade, Nat.one_mul]
  split
  · rfl
  · rw [Nat.sub_eq_zero_of_le (by omega), Nat.zero_add, Nat.div_eq_of_lt (by omega)]

/-- The outputs of one input take the phase past it (R174). -/
theorem le_resampCount_mul (phase interp decim : Nat) (hd : 1 ≤ decim) :
    interp ≤ phase + resampCount phase interp decim * decim := by
  rw [resampCount]
  split
  · have h := Nat.lt_div_mul_add (a := interp - phase + (decim - 1)) (b := decim) (by omega)
    omega
  · omega

/-- The outputs of a block are those of its first input and those of the rest (R174). -/
theorem resampMade_succ (interp decim phase c : Nat) (hd : 1 ≤ decim) :
    resampMade interp decim phase (c + 1) = resampCount phase interp decim +
      resampMade interp decim (phase + resampCount phase interp decim * decim - interp) c := by
  have hle := le_resampCount_mul phase interp decim hd
  have hmono : resampCount phase interp decim ≤ resampMade interp decim phase (c + 1) := by
    rw [resampCount_eq _ _ _ hd]
    refine Nat.div_le_div_right ?_
    have : 1 * interp ≤ (c + 1) * interp := Nat.mul_le_mul_right _ (by omega)
    omega
  generalize hk : resampCount phase interp decim = k at *
  unfold resampMade at *
  rw [Nat.add_mul, Nat.one_mul] at *
  generalize c * interp = ci at *
  by_cases hc : k * decim ≤ ci + interp - phase
  · have : ci + interp - phase + (decim - 1) = (ci - (phase + k * decim - interp) + (decim - 1)) + k * decim := by omega
    rw [this, Nat.add_mul_div_right _ _ (by omega), Nat.add_comm]
  · have h0 : ci - (phase + k * decim - interp) = 0 := by omega
    have h1 : (decim - 1) / decim = 0 := Nat.div_eq_of_lt (by omega)
    rw [h0, Nat.zero_add, h1]
    refine Nat.le_antisymm ?_ hmono
    refine Nat.le_of_lt_succ ((Nat.div_lt_iff_lt_mul (by omega)).mpr ?_)
    rw [Nat.succ_mul]
    omega

/-- FRESAMP makes what its formula says of the inputs it consumed (R174). -/
theorem firResamp_made (tb : List Real64) {interp decim : Nat} (hd : 1 ≤ decim) (room : Nat) (f : FilterInst) (x : List Cplx) :
    (firResamp tb interp decim room f x).out.length = resampMade interp decim f.phase (firResamp tb interp decim room f x).eaten ∧
      (firResamp tb interp decim room f x).eaten ≤ x.length := by
  have hzero (phase : Nat) : resampMade interp decim phase 0 = 0 := by
    rw [resampMade, Nat.zero_mul, Nat.zero_sub, Nat.zero_add, Nat.div_eq_of_lt (by omega)]
  induction x generalizing room f with
  | nil => exact ⟨(hzero _).symm, Nat.le_refl _⟩
  | cons z x ih =>
    rw [firResamp]
    dsimp only
    split
    · exact ⟨(hzero _).symm, Nat.zero_le _⟩
    · obtain ⟨hlen, heaten⟩ := ih (room - resampCount f.phase interp decim)
        (((f.put z).withPhase ((f.put z).phase + resampCount f.phase interp decim * decim - interp)).advance)
      refine ⟨?_, Nat.succ_le_succ heaten⟩
      simp only [FirLoop.after, List.length_append, FilterInst.resampOuts, List.length_map, List.length_range, hlen]
      exact (resampMade_succ _ _ _ _ hd).symm

/-- ANRUN makes whole hops of the samples it has (R363). -/
theorem notchLoop_length_le (p : Params) (ks : Option Int) (room : Nat) (t : NotchState) (x : List Cplx) :
    (notchLoop p ks room t x).out.length ≤ if t.fill < p.anB then t.fill + x.length else 0 := by
  induction x generalizing room t with
  | nil => simp [notchLoop]
  | cons z x ih =>
    rw [notchLoop]
    split
    · simp
    dsimp only
    have hcollect : (t.collect p z.re).fill = t.fill + 1 := rfl
    split
    next hfull =>
      rw [hcollect] at hfull
      have h := ih (room - p.anB) ((t.collect p z.re).hop p ks).1
      rw [show ((t.collect p z.re).hop p ks).1.fill = 0 from rfl] at h
      rw [List.length_append, List.length_map, NotchState.hop_length, List.length_cons]
      split at h <;> split <;> omega
    next hopen =>
      have h := ih room (t.collect p z.re)
      rw [hcollect] at h hopen
      dsimp only
      rw [List.length_cons]
      split at h <;> split <;> omega

theorem stagesRatio_cons (k : StageInst) (st : List StageInst) : stagesRatio (k :: st) = k.ratio * stagesRatio st := by
  have h (a : Nat) (l : List StageInst) : l.foldl (fun acc x => acc * x.ratio) a = a * stagesRatio l := by
    induction l generalizing a with
    | nil => exact (Nat.mul_one a).symm
    | cons k l ih => rw [stagesRatio, List.foldl_cons, List.foldl_cons, ih, ih (1 * k.ratio), Nat.one_mul, Nat.mul_assoc]
  rw [stagesRatio, List.foldl_cons, h, Nat.one_mul]

/-- An interpolating stage gives at most `ratio` samples per input (R172, R208). -/
theorem State.intStage_ratio (s : State) (p : Place) (k : StageInst) (x : List Cplx) :
    (s.intStage p k x).out.length ≤ x.length * k.ratio := by
  cases k with
  | hb i =>
    simp only [State.intStage, hbStage, hbRun, outputAs_length, hbInt2_length, hbInt2_eaten, StageInst.ratio]
    omega
  | fir f r =>
    have h := (firInterp_spec (s.coefs (f.grown x.length)) r s.cfg.maxBlock (f.grown x.length) (outputAs f.variant x)).2.1
    simpa [State.intStage, firStage, firRun, StageInst.ratio, Nat.mul_comm] using h

/-- An interpolating cascade gives at most the product of its ratios per input (R270). -/
theorem State.runInt_ratio (s : State) (p : Place) (st : List StageInst) (x : List Cplx) :
    (s.runInt p st x).out.length ≤ x.length * stagesRatio st := by
  induction st generalizing x with
  | nil => exact (Nat.mul_one _).ge
  | cons k st ih =>
    rw [stagesRatio_cons, ← Nat.mul_assoc]
    exact (ih _).trans (Nat.mul_le_mul_right _ (s.intStage_ratio _ k x))

/-! ### Base and extent -/

/-- The base register and the extent of a command that stores samples (R86). -/
def commandExtent (i : Instr) (s : State) : Option (Word64 × Nat) :=
  match i with
  | .fapply _ | .fdecim _ | .hbdec2 _ | .chrun _ | .demod _ | .agcrun _ _ | .nbrun _ => some (s.a0, extentSame s.opN)
  | .finterp _ => some (s.a0, s.extentUp s.opN (s.opN * s.op2))
  | .fresamp _ => some (s.a0, s.extentUp s.opN ((s.opN * s.op2 + (s.op3 - 1)) / s.op3 + 1))
  | .hbint2 _ => some (s.a0, s.extentUp s.opN (2 * s.opN))
  | .frac _ => some (s.a0, s.fracExtent)
  | .restore id => some (s.a0, s.extentUp s.opN (s.opN * stagesRatio (s.bank id).demod.int))
  | .mod _ => some (s.a0, s.cfg.maxBlock)
  | .anrun _ => some (s.a0, min (s.opN + s.cfg.anB - 1) s.cfg.maxBlock)
  | .piperx _ => some (s.a2, s.cfg.maxBlock)
  | _ => none

/-- A command that stores checks its count and its extent (R86, R450). -/
theorem checks_of_extent {i : Instr} {s : State} {p : Word64 × Nat} (h : commandExtent i s = some p) :
    s.sizeCheck ∈ commandChecks i s ∧ s.boundsCheck p.1 p.2 ∈ commandChecks i s := by
  cases i <;> cases h <;>
    simp [commandChecks, State.filterChecks, State.halfChecks, State.bankBufChecks, State.pipeChecks]

/-- A block within `MAXBLOCK` has its extent within `MAXBLOCK` (R86). -/
theorem extent_le {i : Instr} {s : State} {p : Word64 × Nat} (h : commandExtent i s = some p) (hn : s.opN ≤ s.cfg.maxBlock) :
    p.2 ≤ s.cfg.maxBlock := by
  have hup (m : Nat) : s.extentUp s.opN m ≤ s.cfg.maxBlock := by simp only [State.extentUp]; omega
  cases i <;> cases h
  case frac =>
    dsimp only [State.fracExtent]
    split
    · exact Nat.le_refl _
    · exact hn
  case finterp | fresamp | hbint2 | restore => exact hup _
  case mod | piperx => exact Nat.le_refl _
  case anrun => exact Nat.min_le_right ..
  all_goals exact hn

theorem le_extentUp {s : State} {n m k : Nat} (hm : k ≤ m) (hk : k ≤ s.cfg.maxBlock) : k ≤ s.extentUp n m := by
  simp only [State.extentUp]
  omega

@[simp] theorem firRun_out (ser : Nat) (p : Place) (f : FilterInst) (x : List Cplx) (r : FirLoop) :
    (firRun ser p f x r).out = r.out := rfl

@[simp] theorem hbRun_out (ser : Nat) (p : Place) (x : List Cplx) (r : HbLoop) : (hbRun ser p x r).out = r.out := rfl

/-- What a command writes: nothing, or at its base no more samples than its extent, which `R0` counts. -/
structure State.Stores (s : State) (e : Effect) (p : Word64 × Nat) : Prop where
  base : e.base = p.1.toNat
  length : e.out.length ≤ e.r0.toNat
  count : e.r0.toNat ≤ p.2

theorem State.stores_buffer {s : State} {put : Put} {cr : CtrlRegs} {w : Word64} {out : List Cplx} {truncs e : Nat}
    (he : e < 2 ^ 64) (hlen : out.length ≤ e) : s.Stores (.buffer put cr w.toNat out truncs) (w, e) := by
  have hr : (BitVec.ofNat 64 out.length).toNat = out.length := by
    rw [BitVec.toNat_ofNat, Nat.mod_eq_of_lt (by omega)]
  exact ⟨rfl, hr.ge, hr.trans_le hlen⟩

/-- A command that stores samples makes no more than its extent (R86, R87). -/
theorem commandEffect_stores {i : Instr} {s : State} {p : Word64 × Nat} (h : commandExtent i s = some p)
    (hc : ∀ c ∈ commandChecks i s, c.ok = true) (hmax : s.cfg.maxBlock < 2 ^ 64) : s.Stores (commandEffect i s) p := by
  have hn : s.opN ≤ s.cfg.maxBlock := s.sizeCheck_ok.mp (hc _ (checks_of_extent h).1)
  have he : p.2 < 2 ^ 64 := (extent_le h hn).trans_lt hmax
  cases i <;> cases h
  case nbrun id =>
    dsimp only [commandEffect]
    split
    · exact ⟨rfl, Nat.zero_le _, Nat.le_refl _⟩
    · refine State.stores_buffer he ?_
      simp [State.nbRun, State.runNb, nbLoop_length, extentSame]
  all_goals refine State.stores_buffer he ?_
  case fapply id => simp [State.fapplyRun, (firApply_spec ..).1, extentSame]
  case fdecim id => simpa [State.fdecimRun, extentSame] using (firDecim_spec _ s.op2 (s.filter id) (s.input (s.filter id).variant)).1
  case finterp id =>
    obtain ⟨hroom, hratio, -⟩ := firInterp_spec (s.coefs (s.filter id)) s.op2 s.cfg.maxBlock ((s.filter id).grown s.opN)
      (s.input (s.filter id).variant)
    rw [emitted_length]
    rw [State.input_length, Nat.mul_comm] at hratio
    exact le_extentUp hratio hroom
  case fresamp id =>
    have hd : 1 ≤ s.op3 := by
      have h3 := hc (s.ratioCheck s.op3) (by simp [commandChecks, State.filterChecks])
      exact (of_decide_eq_true h3).1
    have hroom := (firResamp_spec (s.coefs (s.filter id)) s.op2 s.op3 s.cfg.maxBlock ((s.filter id).grown s.opN)
      (s.input (s.filter id).variant)).1
    obtain ⟨hmade, heaten⟩ := firResamp_made (s.coefs (s.filter id)) (interp := s.op2) hd s.cfg.maxBlock
      ((s.filter id).grown s.opN) (s.input (s.filter id).variant)
    rw [emitted_length]
    refine le_extentUp ?_ hroom
    refine (hmade.trans_le (Nat.div_le_div_right ?_)).trans (Nat.le_succ _)
    rw [State.input_length] at heaten
    have := Nat.mul_le_mul_right s.op2 heaten
    omega
  case hbdec2 id =>
    simp only [State.halfOut, emitted_length, State.hbdec2Run, hbRun_out, hbDec2_length, State.input_length, extentSame,
      StageInst.carried]
    split <;> omega
  case hbint2 id =>
    simp only [State.halfOut, emitted_length, State.hbint2Run, hbRun_out, hbInt2_length, hbInt2_eaten, State.input_length]
    refine le_extentUp ?_ ?_ <;> omega
  case chrun id => simpa [State.chrunRun, extentSame] using (s.runDec_bounds placeChain _ (s.input .cplx)).1
  case frac id =>
    rw [emitted_length]
    exact fracLoop_length ..
  case demod id =>
    rw [emitted_length]
    refine (s.runDemod_length _ _ _ _ ?_).trans (Nat.min_le_right ..)
    rw [State.input_length]
    exact Nat.le_min.mpr ⟨hn, Nat.le_refl _⟩
  case restore id =>
    have hratio := s.runInt_ratio placeRestore (s.bank id).demod.int (s.input (s.audioType id))
    rw [State.input_length] at hratio
    rw [emitted_length]
    exact le_extentUp hratio (s.runInt_length _ _ _ (by rwa [State.input_length]))
  case mod id =>
    rw [State.modOut_length]
    exact Nat.min_le_right ..
  case agcrun x id => simp [State.agcRun, State.runAgc, agcLoop_length, extentSame]
  case anrun id =>
    have h := notchLoop_length_le s.cfg (sidetoneBin s.cfg s.draws s.cr.sidetoneFreq (s.bank id).notch.fs) s.cfg.maxBlock
      (s.bank id).notch (s.input .real)
    rw [State.input_length] at h
    rw [emitted_length]
    refine Nat.le_min.mpr ⟨h.trans ?_, notchLoop_length ..⟩
    split <;> omega
  case piperx id =>
    rw [emitted_length]
    exact State.pipe_length id _ _ _ hn

/-- A command without an extent stores nothing and counts nothing. -/
theorem commandEffect_none {i : Instr} {s : State} (h : commandExtent i s = none) :
    (commandEffect i s).out = [] ∧ (commandEffect i s).r0 = 0 := by
  cases i
  case nop | finit | ftune | hbinit | chsel | dminit | modinit | agcinit | nbinit | aninit | bkfree => exact ⟨rfl, rfl⟩
  all_goals cases h

end Sys2Proof.Machine
end

section
/-! PROOFS. Commands and host actions keep sample memory (spec/10_state.md R37, spec/20_memory.md R86, R87, R99): cells change only where
a command stores, and no step lists a cell that does not exist. -/

namespace Sys2Proof.Machine

/-! ### The cells a command changes -/

theorem storedAt_of_extent {i : Instr} {s : State} {p : Word64 × Nat} (h : commandExtent i s = some p) (t : State) :
    storedAt i s t = (p.1.toNat, t.r0.toNat) := by
  cases i <;> cases h <;> rfl

@[simp] theorem State.done_sm (s : State) (i : Instr) :
    (s.done i).sm = s.sm.writeBlock (commandEffect i s).base (commandEffect i s).out := rfl

@[simp] theorem State.done_r0 (s : State) (i : Instr) : (s.done i).r0 = (commandEffect i s).r0 := rfl

@[simp] theorem State.done_cfg (s : State) (i : Instr) : (s.done i).cfg = s.cfg := State.affected_cfg ..

/-- The base and the count of a command whose checks hold lie within memory (R86). -/
theorem extent_within {i : Instr} {s : State} {p : Word64 × Nat} (h : commandExtent i s = some p)
    (hc : ∀ c ∈ commandChecks i s, c.ok = true) : p.1.toNat + p.2 ≤ s.cfg.smSize :=
  (s.boundsCheck_ok p.1 p.2).mp (hc _ (checks_of_extent h).2)

/-- A command changes no cell but those it stores, and stores within memory (R86, R87). -/
theorem exec_stores {i : Instr} {s t : State} (hwf : s.sm.wf = true) (hmax : s.cfg.maxBlock < 2 ^ 64)
    (h : exec i s = .next t) : s.KeepsCellsOutside t (storedAt i s t).1 (storedAt i s t).2 ∧
      ((storedAt i s t).1 + (storedAt i s t).2 ≤ s.cfg.smSize ∨ t.r0 = 0) := by
  cases exec_endsAs h with
  | refused | starved => exact ⟨fun _ _ => rfl, .inr rfl⟩
  | completed hc =>
    cases he : commandExtent i s with
    | none =>
      obtain ⟨hout, hr⟩ := commandEffect_none he
      exact ⟨fun _ _ => by rw [State.done_sm, hout, Mem.writeBlock], .inr hr⟩
    | some p =>
      obtain ⟨hbase, hlen, hcount⟩ := commandEffect_stores he hc hmax
      rw [storedAt_of_extent he]
      refine ⟨fun x hx => ?_, .inl ?_⟩
      · rw [State.done_r0] at hx
        rw [State.done_sm, Mem.read_writeBlock _ _ _ _ hwf, hbase, if_neg fun hin => hx (by omega)]
      · have := extent_within he hc
        rw [State.done_r0]
        dsimp only
        omega

theorem State.maxBlock_lt_of_configOk {s : State} (h : s.configOk = true) : s.cfg.maxBlock < 2 ^ 64 := by
  simp only [State.configOk, Params.ok, Params.sizesOk, Bool.and_eq_true, decide_eq_true_eq] at h
  omega

/-- Settles O16: an effect writes its samples from its base on, and its extent bounds them. -/
theorem commandsStoreInTheirExtent : Obligations.CommandsStoreInTheirExtent :=
  fun _ _ _ hwf hconf h => exec_stores hwf (State.maxBlock_lt_of_configOk hconf) h

/-! ### The invariant of memory -/

/-- Writing cells that exist keeps the invariant of memory (R37). -/
theorem State.MemoryOk.writeBlock {s : State} (h : s.MemoryOk) {a : Nat} {out : List Cplx}
    (hout : a + out.length ≤ s.cfg.smSize ∨ out = []) :
    (s.sm.writeBlock a out).wf = true ∧ ∀ c ∈ s.sm.writeBlock a out, c.1 < s.cfg.smSize := by
  refine ⟨Mem.wf_writeBlock a out s.sm h.1, fun c hc => ?_⟩
  rcases hout with hfit | rfl
  · rcases Mem.mem_writeBlock hc with hin | hold
    · omega
    · exact h.2 c hold
  · exact h.2 c hc

/-- A command keeps the invariant of memory (R37, R86). -/
theorem exec_keepsMemory {i : Instr} {s t : State} (hmax : s.cfg.maxBlock < 2 ^ 64) (hs : s.MemoryOk)
    (h : exec i s = .next t) : t.MemoryOk := by
  cases exec_endsAs h with
  | refused | starved => exact hs
  | completed hc =>
    suffices hfit : (commandEffect i s).base + (commandEffect i s).out.length ≤ s.cfg.smSize ∨ (commandEffect i s).out = [] by
      rw [State.MemoryOk, State.done_sm, State.done_cfg]
      exact hs.writeBlock hfit
    cases he : commandExtent i s with
    | none => exact .inr (commandEffect_none he).1
    | some p =>
      obtain ⟨hbase, hlen, hcount⟩ := commandEffect_stores he hc hmax
      have := extent_within he hc
      exact .inl (by omega)

/-- What a step that issues a word does (R99, R121, R140): a configuration is well formed when it answers a next state. -/
theorem State.issue_cases {s t : State} {w : Word32} (h : s.issue w = .next t) :
    s.configOk = true ∧ ((∃ i, decode w = some i ∧ exec i s = .next t) ∨ (decode w = none ∧ t = s.raise .badOp (w.setWidth 64))) := by
  unfold State.issue at h
  split at h
  · next hconf =>
    refine ⟨hconf, ?_⟩
    split at h
    · next i hi => exact .inl ⟨i, hi, h⟩
    · next hnone => exact .inr ⟨hnone, by cases h; rfl⟩
  · cases h

theorem State.writeA_sm (s : State) (i : Fin 4) (w : Word64) : (s.writeA i w).sm = s.sm ∧ (s.writeA i w).cfg = s.cfg := by
  rw [State.writeA_eq]
  exact ⟨rfl, rfl⟩

theorem State.writeCR_sm (s : State) (n : Nat) (w : Word64) : (s.writeCR n w).sm = s.sm ∧ (s.writeCR n w).cfg = s.cfg := by
  rw [State.writeCR_eq]
  exact ⟨rfl, rfl⟩

/-- Where a step goes (R26, R97): nowhere, or where the oldest host action to come leads. -/
theorem step_cases {s t : State} (h : step s = .next t) :
    t = s ∨ ∃ a rest, s.host = a :: rest ∧ State.act { s with host := rest } a = .next t := by
  unfold step at h
  split at h
  · next hhost => exact .inl (by cases h; rfl)
  · next a rest hhost => exact .inr ⟨a, rest, hhost, h⟩

/-- A host action keeps the invariant of memory (R99). -/
theorem State.act_keepsMemory {s t : State} {a : HostAction} (hs : s.MemoryOk) (h : s.act a = .next t) : t.MemoryOk := by
  cases a with
  | writeA i w =>
    cases h
    obtain ⟨hsm, hcfg⟩ := s.writeA_sm i w
    exact ⟨hsm ▸ hs.1, hsm ▸ hcfg ▸ hs.2⟩
  | issueCmd w =>
    obtain ⟨hconf, ⟨i, -, hi⟩ | ⟨-, rfl⟩⟩ := State.issue_cases h
    · exact exec_keepsMemory (State.maxBlock_lt_of_configOk hconf) hs hi
    · exact hs
  | readR i => cases h; exact hs
  | readCR n => cases h; exact hs
  | writeCR n w =>
    cases h
    obtain ⟨hsm, hcfg⟩ := s.writeCR_sm n w
    exact ⟨hsm ▸ hs.1, hsm ▸ hcfg ▸ hs.2⟩
  | loadTable t vals =>
    cases h
    unfold State.loadTable
    split <;> exact hs
  | writeSM a vals =>
    simp only [State.act, State.writeSM] at h
    split at h
    · next hfit =>
      cases h
      exact hs.writeBlock (.inl (of_decide_eq_true hfit))
    · cases h
  | readSM a n =>
    simp only [State.act, State.readSM] at h
    split at h <;> cases h
    exact hs
  | reset => cases h; exact ⟨rfl, nofun⟩

/-- Settles O11: a command stores within its extent, the host where it names cells that exist, and every write keeps the form. -/
theorem stepKeepsMemory : Obligations.StepKeepsMemory := by
  intro s t hs h
  obtain rfl | ⟨a, rest, -, hact⟩ := step_cases h
  · exact hs
  · exact State.act_keepsMemory (s := { s with host := rest }) hs hact

end Sys2Proof.Machine
end

section
/-! PROOFS. The loops of the Filter Engine (spec/40_filter_engine.md R160 to R175): what inputs do to a filter's history, and every output
of the four loops by the age of the inputs it is made of. -/

namespace Sys2Proof.Machine

/-- The entry before the new cursor is the one at the old cursor. -/
theorem newestIndex_last {cur len : Nat} (hc : cur < len) : ((cur + 1) % len + len - 1) % len = cur := by
  rw [mod_of_lt_two_mul (a := cur + 1) (by omega)]
  split <;> rw [mod_of_lt_two_mul (by omega)] <;> split <;> omega

/-! ### A filter by the age of its inputs (R161, R163) -/

/-- The cursor lies in a history of `N` samples. -/
def FilterInst.Whole (f : FilterInst) : Prop := f.cur < f.taps ∧ f.hist.length = f.taps

theorem FilterInst.Ok.whole {p : Params} {f : FilterInst} (h : f.Ok p) (hb : f.bound = true) : f.Whole := by
  obtain ⟨-, -, hlen, hcur, -⟩ := h hb
  exact ⟨hcur, hlen⟩

/-- The filter after one input. -/
def FilterInst.next (f : FilterInst) (z : Cplx) : FilterInst := (f.put z).advance

theorem FilterInst.takes_cons (f : FilterInst) (z : Cplx) (x : List Cplx) : f.takes (z :: x) = (f.next z).takes x := rfl

theorem FilterInst.Whole.next {f : FilterInst} (h : f.Whole) (z : Cplx) : (f.next z).Whole :=
  ⟨Nat.mod_lt _ (Nat.zero_lt_of_lt h.1), (List.length_set ..).trans h.2⟩

theorem FilterInst.takes_withPhase (f : FilterInst) (q : Nat) (x : List Cplx) :
    (f.withPhase q).takes x = (f.takes x).withPhase q := by
  induction x generalizing f with
  | nil => rfl
  | cons z x ih => exact ih (f.next z)

/-- The samples but the newest stay where they are (R31). -/
theorem FilterInst.put_getD_ne (f : FilterInst) (z : Cplx) {i : Nat} (hi : i ≠ f.cur) :
    (f.put z).hist.getD i .zero = f.hist.getD i .zero := by
  simp [FilterInst.put, List.getElem?_set_ne (Ne.symm hi)]

theorem FilterInst.put_getD_cur {f : FilterInst} (h : f.Whole) (z : Cplx) : (f.put z).hist.getD f.cur .zero = z := by
  have hlt : f.cur < f.hist.length := h.2 ▸ h.1
  simp [FilterInst.put, hlt]

section
variable {f : FilterInst} (h : f.Whole)
include h

/-- The place of the sample received `q` inputs before the newest one. -/
theorem FilterInst.Whole.place_ne {q : Nat} (hq : 0 < q) (hlt : q < f.taps) : (f.cur + f.taps - q) % f.taps ≠ f.cur := by
  have hcur := h.1
  rw [mod_of_lt_two_mul (by omega)]
  split <;> omega

theorem FilterInst.Whole.place_zero : (f.cur + f.taps - 0) % f.taps = f.cur := by
  rw [Nat.sub_zero, Nat.add_mod_right, Nat.mod_eq_of_lt h.1]

/-- At the input just written the filter holds what it received (R161). -/
theorem FilterInst.Whole.newest_put (z : Cplx) (x : List Cplx) {q : Nat} (hq : q < f.taps) :
    (f.put z).newest q = f.received (z :: x) 0 q := by
  rcases Nat.eq_zero_or_pos q with rfl | hpos
  · exact (congrArg ((f.put z).hist.getD · .zero) h.place_zero).trans (FilterInst.put_getD_cur h z)
  · rw [FilterInst.received, if_neg (by omega)]
    exact FilterInst.put_getD_ne f z (h.place_ne hpos hq)

/-- An input later everything is one older (R161, R163). -/
theorem FilterInst.Whole.received_next (z : Cplx) (x : List Cplx) {m q : Nat} (hq : q ≤ f.taps) :
    (f.next z).received x m q = f.received (z :: x) (m + 1) q := by
  have hcur := h.1
  have htaps : (f.next z).taps = f.taps := rfl
  have hcur' : (f.next z).cur = (f.cur + 1) % f.taps := rfl
  unfold FilterInst.received
  by_cases hm : q ≤ m
  · rw [if_pos hm, if_pos (by omega), Nat.sub_add_comm hm]
    rfl
  rw [if_neg hm, htaps, hcur']
  by_cases hlast : q = m + 1
  · subst hlast
    rw [if_pos (Nat.le_refl _), Nat.sub_self, Nat.add_sub_cancel_left]
    rw [newestIndex_last hcur]
    exact FilterInst.put_getD_cur h z
  · rw [if_neg (by omega), newestIndex_after hcur (by omega : 1 < q - m) (by omega), Nat.sub_sub]
    exact FilterInst.put_getD_ne f z (h.place_ne (by omega) (by omega))

/-- The samples a filter holds after a block, each by its age (R31). -/
theorem FilterInst.Whole.newest_takes (x : List Cplx) {q : Nat} (hq : q < f.taps) :
    (f.takes x).newest (q + 1) = f.received x x.length (q + 1) := by
  induction x generalizing f with
  | nil => rfl
  | cons z x ih => exact (ih (h.next z) hq).trans (h.received_next z x hq)

end

/-- The coefficients and the samples of a dot product lie within the filter (R161). -/
theorem FilterInst.index_lt {f : FilterInst} {s d q : Nat} (hq : q < f.tapCount s d) : s + q * d < f.taps ∧ q < f.taps := by
  have hd : 0 < d := Nat.pos_of_ne_zero fun h0 => by simp [FilterInst.tapCount, h0] at hq
  have hle : (q + 1) * d ≤ f.taps - s + (d - 1) := (Nat.le_div_iff_mul_le hd).mp hq
  have hmul : q ≤ q * d := Nat.le_mul_of_pos_right q hd
  rw [Nat.succ_mul] at hle
  omega

section
variable {f : FilterInst} (h : f.Whole) (tb : List Real64) (z : Cplx) (x : List Cplx) (s d : Nat)
include h

/-- A dot product at the input just written (R160, R161). -/
theorem FilterInst.Whole.dot_put : (f.put z).dot tb s d = f.branch tb (z :: x) 0 s d :=
  List.foldl_ext _ _ _ fun acc q hq => by
    rw [h.newest_put z x (FilterInst.index_lt (List.mem_range.mp hq)).2]
    rfl

/-- A sum at a later input is one at an input later still of the filter before (R160, R161). -/
theorem FilterInst.Whole.branch_next (m : Nat) : (f.next z).branch tb x m s d = f.branch tb (z :: x) (m + 1) s d :=
  List.foldl_ext _ _ _ fun acc q hq => by
    rw [h.received_next z x (FilterInst.index_lt (List.mem_range.mp hq)).2.le]
    rfl

end

/-! ### Finite values -/

theorem getD_isFinite {l : List Cplx} (h : ∀ z ∈ l, z.isFinite = true) (i : Nat) : (l.getD i .zero).isFinite = true := by
  rw [List.getD_eq_getElem?_getD]
  cases hi : l[i]? with
  | none => rfl
  | some z => exact h z (List.mem_of_getElem? hi)

theorem FilterInst.AllFinite.put {f : FilterInst} {tb : List Real64} {z : Cplx} {x : List Cplx} (h : f.AllFinite tb (z :: x)) :
    (f.put z).AllFinite tb x := by
  obtain ⟨hx, hf, htaps⟩ := h
  refine ⟨fun y hy => hx y (List.mem_cons_of_mem z hy), fun y hy => ?_, htaps⟩
  rcases List.mem_or_eq_of_mem_set hy with hy | rfl
  · exact hf y hy
  · exact hx y List.mem_cons_self

/-- A dot product of finite values reads none that is not finite. -/
theorem FilterInst.AllFinite.dotBad {f : FilterInst} {tb : List Real64} {x : List Cplx} (h : f.AllFinite tb x) (s d : Nat) :
    f.dotBad tb s d = false := by
  obtain ⟨-, hf, htaps⟩ := h
  refine List.any_eq_false.mpr fun q hq => ?_
  obtain ⟨hk, -⟩ := FilterInst.index_lt (List.mem_range.mp hq)
  rw [FilterInst.newest, getD_isFinite hf, htaps _ hk]
  nofun

/-! ### The loops (R168, R170, R172, R174) -/

section
variable (tb : List Real64) {f : FilterInst} (x : List Cplx)

theorem firApply_out (h : f.Whole) :
    (firApply tb f x).out = (List.range x.length).map fun m => f.branch tb x m 0 1 := by
  induction x generalizing f with
  | nil => rfl
  | cons z x ih =>
    rw [firApply, FirLoop.after, List.length_cons, List.range_succ_eq_map, List.map_cons, List.map_map, ← h.dot_put tb z x]
    refine congrArg _ ((ih (h.next z)).trans (List.map_congr_left fun m _ => ?_))
    exact h.branch_next tb z x 0 1 m

theorem firApply_bad (h : f.AllFinite tb x) : (firApply tb f x).bad = false := by
  induction x generalizing f with
  | nil => rfl
  | cons z x ih => exact Bool.or_eq_false_iff.mpr ⟨h.put.dotBad 0 1, ih (f := (f.put z).advance) h.put⟩

theorem firDecim_cons (ratio : Nat) (f : FilterInst) (z : Cplx) : firDecim tb ratio f (z :: x) =
    if f.phase + 1 = ratio then
      (firDecim tb ratio ((f.next z).withPhase 0) x).after [(f.put z).dot tb 0 1] ((f.put z).dotBad tb 0 1)
    else (firDecim tb ratio ((f.next z).withPhase (f.phase + 1)) x).after [] false := rfl

/-- FDECIM takes every input; its phase counts those since the last output (R170). -/
theorem firDecim_f {ratio : Nat} (hp : f.phase < ratio) :
    (firDecim tb ratio f x).f = (f.takes x).withPhase ((x.length + f.phase) % ratio) := by
  induction x generalizing f with
  | nil => simp [firDecim, FirLoop.done, FilterInst.takes, FilterInst.withPhase, Nat.mod_eq_of_lt hp]
  | cons z x ih =>
    rw [firDecim_cons, FilterInst.takes_cons, List.length_cons]
    split
    next hlast =>
      rw [show x.length + 1 + f.phase = x.length + ratio by omega, Nat.add_mod_right]
      refine (ih (f := (f.next z).withPhase 0) (by omega : 0 < ratio)).trans ?_
      rw [FilterInst.takes_withPhase]
      rfl
    next hopen =>
      rw [Nat.add_right_comm, Nat.add_assoc]
      refine (ih (f := (f.next z).withPhase (f.phase + 1)) (by omega : f.phase + 1 < ratio)).trans ?_
      rw [FilterInst.takes_withPhase]
      rfl

/-- FDECIM's outputs, each made at the input that completes the ratio (R170). -/
theorem firDecim_out {ratio : Nat} (h : f.Whole) (hp : f.phase < ratio) :
    (firDecim tb ratio f x).out = (List.range ((x.length + f.phase) / ratio)).map fun j =>
      f.branch tb x ((j + 1) * ratio - 1 - f.phase) 0 1 := by
  induction x generalizing f with
  | nil => simp [firDecim, FirLoop.done, Nat.div_eq_of_lt hp]
  | cons z x ih =>
    have hsucc (j : Nat) : ratio ≤ (j + 1) * ratio := Nat.le_mul_of_pos_left ratio (Nat.succ_pos j)
    rw [firDecim_cons, List.length_cons]
    split
    next hlast =>
      rw [show x.length + 1 + f.phase = x.length + ratio by omega, Nat.add_div_right _ (by omega), List.range_succ_eq_map,
        List.map_cons, List.map_map]
      refine List.cons_eq_cons.mpr ⟨?_, ?_⟩
      · rw [show (0 + 1) * ratio - 1 - f.phase = 0 by omega]
        exact h.dot_put tb z x 0 1
      · refine (ih (f := (f.next z).withPhase 0) (h.next z) (by omega : 0 < ratio)).trans (List.map_congr_left fun j _ => ?_)
        have hindex : (j.succ + 1) * ratio - 1 - f.phase = ((j + 1) * ratio - 1 - 0) + 1 := by
          have := hsucc j
          rw [Nat.succ_mul]
          omega
        exact (h.branch_next tb z x 0 1 _).trans (congrArg (f.branch tb (z :: x) · 0 1) hindex.symm)
    next hopen =>
      rw [Nat.add_right_comm, Nat.add_assoc]
      refine (ih (f := (f.next z).withPhase (f.phase + 1)) (h.next z) (by omega : f.phase + 1 < ratio)).trans
        (List.map_congr_left fun j _ => ?_)
      have hindex : (j + 1) * ratio - 1 - f.phase = ((j + 1) * ratio - 1 - (f.phase + 1)) + 1 := by
        have := hsucc j
        omega
      exact (h.branch_next tb z x 0 1 _).trans (congrArg (f.branch tb (z :: x) · 0 1) hindex.symm)

theorem firDecim_bad (ratio : Nat) (h : f.AllFinite tb x) : (firDecim tb ratio f x).bad = false := by
  induction x generalizing f with
  | nil => rfl
  | cons z x ih =>
    rw [firDecim_cons]
    split
    · exact Bool.or_eq_false_iff.mpr ⟨h.put.dotBad 0 1, ih (f := (f.next z).withPhase 0) h.put⟩
    · exact ih (f := (f.next z).withPhase _) h.put

/-- FINTERP consumes as many inputs as `MAXBLOCK` admits outputs of (R172, R448). -/
theorem firInterp_eaten {ratio : Nat} (hr : 1 ≤ ratio) (room : Nat) (f : FilterInst) :
    (firInterp tb ratio room f x).eaten = min x.length (room / ratio) ∧
      (firInterp tb ratio room f x).trunc = decide (room / ratio < x.length) := by
  induction x generalizing room f with
  | nil => simp [firInterp, FirLoop.done]
  | cons z x ih =>
    rw [firInterp]
    split
    next hcut => simp [FirLoop.cut, Nat.div_eq_of_lt hcut]
    next hroom =>
      obtain ⟨heaten, htrunc⟩ := ih (room - ratio) (f.put z).advance
      have hdiv : room / ratio = (room - ratio) / ratio + 1 := Nat.div_eq_sub_div hr (by omega)
      refine ⟨?_, ?_⟩
      · simp only [FirLoop.after, heaten, List.length_cons]
        omega
      · simp only [FirLoop.after, htrunc, List.length_cons, decide_eq_decide]
        omega

theorem firInterp_f (ratio room : Nat) (f : FilterInst) :
    (firInterp tb ratio room f x).f = f.takes (x.take (firInterp tb ratio room f x).eaten) := by
  induction x generalizing room f with
  | nil => rfl
  | cons z x ih =>
    rw [firInterp]
    split
    · rfl
    · exact ih (room - ratio) (f.put z).advance

/-- FINTERP's outputs: of each input the sub-filters in their order, scaled (R172). -/
theorem firInterp_out (h : f.Whole) {ratio : Nat} (hr : 1 ≤ ratio) (room : Nat) :
    (firInterp tb ratio room f x).out = (List.range ((firInterp tb ratio room f x).eaten * ratio)).map fun q =>
      (f.branch tb x (q / ratio) (q % ratio) ratio).scale (.ofNat ratio) := by
  induction x generalizing room f with
  | nil => simp [firInterp, FirLoop.done]
  | cons z x ih =>
    rw [firInterp]
    split
    · simp [FirLoop.cut]
    · have hrest := ih (f := (f.put z).advance) (h.next z) (room - ratio)
      simp only [FirLoop.after, hrest, Nat.succ_mul]
      rw [Nat.add_comm _ ratio, List.range_add, List.map_append, List.map_map]
      refine congrArg₂ _ (List.map_congr_left fun q hq => ?_) (List.map_congr_left fun q _ => ?_)
      · have hlt := List.mem_range.mp hq
        rw [Nat.div_eq_of_lt hlt, Nat.mod_eq_of_lt hlt, h.dot_put tb z x]
      · rw [Function.comp, Nat.add_div_left _ hr, Nat.add_mod_left]
        exact congrArg (Cplx.scale · _) (h.branch_next tb z x _ _ _)

theorem firInterp_bad (ratio room : Nat) (h : f.AllFinite tb x) : (firInterp tb ratio room f x).bad = false := by
  induction x generalizing room f with
  | nil => rfl
  | cons z x ih =>
    rw [firInterp]
    split
    · rfl
    · exact Bool.or_eq_false_iff.mpr ⟨List.any_eq_false.mpr fun s _ => by simp [h.put.dotBad],
        ih (f := (f.put z).advance) (room - ratio) h.put⟩

/-- FRESAMP takes the inputs it consumes; its phase is where the next output stands (R174). -/
theorem firResamp_f {interp decim : Nat} (hd : 1 ≤ decim) (room : Nat) (f : FilterInst) :
    let r := firResamp tb interp decim room f x
    r.f = (f.takes (x.take r.eaten)).withPhase (f.phase + resampMade interp decim f.phase r.eaten * decim - r.eaten * interp) := by
  induction x generalizing room f with
  | nil =>
    have hzero : (decim - 1) / decim = 0 := Nat.div_eq_of_lt (by omega)
    simp [firResamp, FirLoop.done, FilterInst.takes, FilterInst.withPhase, resampMade, hzero]
  | cons z x ih =>
    rw [firResamp]
    dsimp only
    split
    · have hzero : (decim - 1) / decim = 0 := Nat.div_eq_of_lt (by omega)
      simp [FirLoop.cut, FilterInst.takes, FilterInst.withPhase, resampMade, hzero]
    next hroom =>
      have hle := le_resampCount_mul f.phase interp decim hd
      set k := resampCount f.phase interp decim with hk
      have hstep := ih (room - k) (((f.put z).withPhase (f.phase + k * decim - interp)).advance)
      have hnext : ((f.put z).withPhase (f.phase + k * decim - interp)).advance = (f.next z).withPhase (f.phase + k * decim - interp) :=
        rfl
      have hphase (g : FilterInst) (q : Nat) : (g.withPhase q).phase = q := rfl
      rw [hnext] at hstep
      dsimp only at hstep
      rw [FilterInst.takes_withPhase, hphase] at hstep
      simp only [FirLoop.after, List.take_succ_cons, FilterInst.takes_cons]
      rw [show (f.put z).phase = f.phase from rfl, hnext, hstep, resampMade_succ _ _ _ _ hd, ← hk, Nat.add_mul, Nat.succ_mul]
      exact congrArg ((f.next z).takes _).withPhase (by omega)

/-- FRESAMP consumes as many inputs as `MAXBLOCK` admits outputs of (R174, R448). -/
theorem firResamp_eaten {interp decim : Nat} (hd : 1 ≤ decim) (room : Nat) (f : FilterInst) :
    let r := firResamp tb interp decim room f x
    r.trunc = decide (r.eaten < x.length) ∧
      (r.eaten < x.length → room < resampMade interp decim f.phase (r.eaten + 1)) := by
  induction x generalizing room f with
  | nil => exact ⟨rfl, fun h => absurd h (Nat.not_lt_zero _)⟩
  | cons z x ih =>
    rw [firResamp]
    dsimp only
    split
    next hcut => exact ⟨by simp [FirLoop.cut], fun _ => (resampCount_eq f.phase interp decim hd) ▸ hcut⟩
    next hroom =>
      obtain ⟨htrunc, hnext⟩ := ih (room - resampCount f.phase interp decim)
        ((f.put z).withPhase (f.phase + resampCount f.phase interp decim * decim - interp)).advance
      refine ⟨htrunc.trans (decide_eq_decide.mpr Nat.succ_lt_succ_iff.symm), fun hlt => ?_⟩
      have hrest := hnext (Nat.lt_of_succ_lt_succ hlt)
      refine lt_of_lt_of_eq ?_ (resampMade_succ _ _ _ _ hd).symm
      exact (Nat.sub_lt_iff_lt_add' (by omega)).mp hrest

/-- FRESAMP's outputs: output `j` stands at `phase + j · decim` on the grid of `interp` places per input (R174). -/
theorem firResamp_out (h : f.Whole) {interp decim : Nat} (hi : 1 ≤ interp) (hd : 1 ≤ decim) (room : Nat) :
    let r := firResamp tb interp decim room f x
    r.out = (List.range (resampMade interp decim f.phase r.eaten)).map fun j =>
      (f.branch tb x ((f.phase + j * decim) / interp) ((f.phase + j * decim) % interp) interp).scale (.ofNat interp) := by
  have hzero (phase : Nat) : resampMade interp decim phase 0 = 0 := by
    rw [resampMade, Nat.zero_mul, Nat.zero_sub, Nat.zero_add, Nat.div_eq_of_lt (by omega)]
  induction x generalizing room f with
  | nil => simp [firResamp, FirLoop.done, hzero]
  | cons z x ih =>
    rw [firResamp]
    dsimp only
    split
    · simp [FirLoop.cut, hzero]
    next hroom =>
      have hle := le_resampCount_mul f.phase interp decim hd
      have hplace {j : Nat} (hj : j < resampCount f.phase interp decim) : f.phase + j * decim < interp := by
        unfold resampCount at hj
        split at hj
        · have hmul := (Nat.le_div_iff_mul_le (by omega)).mp hj
          rw [Nat.succ_mul] at hmul
          omega
        · omega
      have hstep := ih (f := ((f.put z).withPhase (f.phase + resampCount f.phase interp decim * decim - interp)).advance)
        (h.next z) (room - resampCount f.phase interp decim)
      dsimp only at hstep
      simp only [FirLoop.after]
      rw [show (f.put z).phase = f.phase from rfl, hstep, resampMade_succ _ _ _ _ hd, List.range_add, List.map_append, List.map_map]
      refine congrArg₂ _ (List.map_congr_left fun j hj => ?_) (List.map_congr_left fun j _ => ?_)
      · have hlt := hplace (List.mem_range.mp hj)
        rw [Nat.div_eq_of_lt hlt, Nat.mod_eq_of_lt hlt]
        exact congrArg (Cplx.scale · _) (h.dot_put tb z x _ _)
      · have hgrid : f.phase + (resampCount f.phase interp decim + j) * decim =
            (f.phase + resampCount f.phase interp decim * decim - interp + j * decim) + interp := by
          rw [Nat.add_mul]
          omega
        rw [Function.comp, hgrid, Nat.add_div_right _ hi, Nat.add_mod_right]
        exact congrArg (Cplx.scale · _) (h.branch_next tb z x _ _ _)

theorem firResamp_bad (interp decim room : Nat) (h : f.AllFinite tb x) :
    (firResamp tb interp decim room f x).bad = false := by
  induction x generalizing room f with
  | nil => rfl
  | cons z x ih =>
    rw [firResamp]
    dsimp only
    split
    · rfl
    · exact Bool.or_eq_false_iff.mpr ⟨List.any_eq_false.mpr fun s _ => by simp [h.put.dotBad],
        ih (f := ((f.put z).withPhase _).advance) _ h.put⟩

end

end Sys2Proof.Machine
end

section
/-! PROOFS. What every command keeps of the parts a filter bank is made of (spec/10_state.md R30 to R36, R61 to R68): filters, half-bands,
stages, the blanker, the AGC, the notch, the demodulator, each over its own run. -/

namespace Sys2Proof.Machine

/-! ### The sample type of a sequence (R9, R85) -/

/-- A real sequence has no imaginary parts. -/
def OfType (v : Variant) (x : List Cplx) : Prop := v = .real → ∀ z ∈ x, z.im = .zero

theorem ofType_outputAs (v : Variant) (x : List Cplx) : OfType v (outputAs v x) := by
  rintro rfl
  exact outputAs_real_im x

theorem State.ofType_input (s : State) (v : Variant) : OfType v (s.input v) := by
  rintro rfl
  exact s.input_real_im

theorem OfType.take {v : Variant} {x : List Cplx} (h : OfType v x) (n : Nat) : OfType v (x.take n) :=
  fun hv z hz => h hv z (List.mem_of_mem_take hz)

theorem ofType_freeSamples {v : Variant} {x : List Cplx} (ser : Nat) (p : Place) (w : Nat → Bool) (h : OfType v x) :
    OfType v (freeSamples ser p v w x) := by
  rintro rfl
  exact freeSamples_real_im ser p w x (h rfl)

/-! ### Filters (R30 to R33, R36) -/

section
variable {p : Params} {f : FilterInst}

theorem FilterInst.ok_of_unbound (h : f.bound = false) : f.Ok p := fun hb => absurd (h.symm.trans hb) (by decide)

theorem FilterInst.Ok.put_advance (h : f.Ok p) {z : Cplx} (hz : f.variant = .real → z.im = .zero) : (f.next z).Ok p := by
  intro hb
  obtain ⟨hpos, hmax, hlen, hcur, htuned, hreal⟩ := h hb
  refine ⟨hpos, hmax, (List.length_set ..).trans hlen, Nat.mod_lt _ hpos, htuned, fun hv => ⟨(hreal hv).1, fun y hy => ?_⟩⟩
  rcases List.mem_or_eq_of_mem_set hy with hy | rfl
  · exact (hreal hv).2 y hy
  · exact hz hv

theorem FilterInst.Ok.withPhase (h : f.Ok p) (q : Nat) : (f.withPhase q).Ok p := h

/-- Inputs of its sample type keep a filter well formed (R31, R32). -/
theorem FilterInst.Ok.takes (h : f.Ok p) {x : List Cplx} (hx : OfType f.variant x) : (f.takes x).Ok p := by
  induction x generalizing f with
  | nil => exact h
  | cons z x ih =>
    exact ih (f := f.next z) (h.put_advance fun hv => hx hv z List.mem_cons_self) fun hv y hy => hx hv y (List.mem_cons_of_mem z hy)

/-- Free values keep a filter well formed (R11). -/
theorem FilterInst.Ok.freed (h : f.Ok p) (ser : Nat) (pl : Place) (cur0 eaten : Nat) : (f.freed ser pl cur0 eaten).Ok p := by
  intro hb
  obtain ⟨hpos, hmax, hlen, hcur, htuned, hreal⟩ := h hb
  refine ⟨hpos, hmax, (freeSamples_length ..).trans hlen, hcur, htuned, fun hv => ⟨(hreal hv).1, ?_⟩⟩
  exact ofType_freeSamples ser pl _ (fun hv => (hreal hv).2) hv

theorem FilterInst.Ok.freedTuned (h : f.Ok p) (ser : Nat) (pl : Place) : (f.freedTuned ser pl).Ok p := by
  intro hb
  obtain ⟨hpos, hmax, hlen, hcur, htuned, hreal⟩ := h hb
  refine ⟨hpos, hmax, hlen, hcur, fun t ht => ?_, fun hv => ⟨?_, (hreal hv).2⟩⟩
  · obtain ⟨u, hu, rfl⟩ := Option.mem_map.mp ht
    exact (freeSamples_length ..).trans (htuned u hu)
  · rw [FilterInst.freedTuned, (hreal hv).1]
    rfl

theorem FilterInst.Ok.grown (h : f.Ok p) (n : Nat) : (f.grown n).Ok p := by
  unfold FilterInst.grown
  split <;> exact h

theorem FilterInst.grown_phase (f : FilterInst) (n : Nat) : (f.grown n).phase = f.phase := by unfold FilterInst.grown; split <;> rfl

theorem FilterInst.grown_variant (f : FilterInst) (n : Nat) : (f.grown n).variant = f.variant := by
  unfold FilterInst.grown
  split <;> rfl

theorem FilterInst.grown_bound (f : FilterInst) (n : Nat) : (f.grown n).bound = f.bound := by unfold FilterInst.grown; split <;> rfl

theorem FilterInst.ok_fresh (v : Variant) (t : Nat) {n : Nat} (hpos : 1 ≤ n) (hmax : n ≤ p.maxTaps) : (FilterInst.fresh v t n).Ok p :=
  fun _ => ⟨hpos, hmax, List.length_replicate, hpos, nofun, fun _ => ⟨rfl, fun _ hz => by rw [List.eq_of_mem_replicate hz]; rfl⟩⟩

/-- Whatever FDECIM takes of its phase, it takes all its inputs (R170). -/
theorem firDecim_takes (tb : List Real64) (ratio : Nat) (f : FilterInst) (x : List Cplx) :
    ∃ q, (firDecim tb ratio f x).f = (f.takes x).withPhase q := by
  induction x generalizing f with
  | nil => exact ⟨f.phase, rfl⟩
  | cons z x ih =>
    rw [firDecim_cons, FilterInst.takes_cons]
    split
    · obtain ⟨q, hq⟩ := ih ((f.next z).withPhase 0)
      exact ⟨q, hq.trans (by rw [FilterInst.takes_withPhase]; rfl)⟩
    · obtain ⟨q, hq⟩ := ih ((f.next z).withPhase (f.phase + 1))
      exact ⟨q, hq.trans (by rw [FilterInst.takes_withPhase]; rfl)⟩

/-- A run of a filter loop leaves its filter well formed, freed or not. -/
theorem FilterInst.Ok.commit {x : List Cplx} {r : FirLoop} (h : r.f.Ok p) (ser : Nat) (pl : Place) (f : FilterInst) (bad : Bool) :
    ((firRun ser pl f x r).commit bad).Ok p := by
  cases bad
  · exact h
  · exact h.freed ser pl _ _

variable (tb : List Real64) {x : List Cplx} (hx : OfType f.variant x) (h : f.Ok p)
include hx h

theorem firApply_ok : (firApply tb f x).f.Ok p := firApply_f tb f x ▸ h.takes hx

theorem firDecim_ok (ratio : Nat) : (firDecim tb ratio f x).f.Ok p := by
  obtain ⟨q, hq⟩ := firDecim_takes tb ratio f x
  exact hq ▸ (h.takes hx).withPhase q

theorem firInterp_ok (ratio room : Nat) : (firInterp tb ratio room f x).f.Ok p :=
  firInterp_f tb x ratio room f ▸ h.takes (hx.take _)

theorem firResamp_ok {interp decim : Nat} (hd : 1 ≤ decim) (room : Nat) : (firResamp tb interp decim room f x).f.Ok p :=
  firResamp_f tb x hd room f ▸ (h.takes (hx.take _)).withPhase _

end

/-! ### Half-bands (R34, R35) -/

section
variable {i : HBInst}

theorem HBInst.Ok.push (h : i.Ok) {z : Cplx} (hz : i.variant = .real → z.im = .zero) : (i.push z).Ok := by
  refine ⟨i.push_win_length z h.1, fun hv y hy => ?_⟩
  rcases List.mem_cons.mp hy with rfl | hy
  · exact hz hv
  · exact h.2 hv y (List.mem_of_mem_take hy)

theorem HBInst.Ok.withToggle (h : i.Ok) (b : Bool) : (i.withToggle b).Ok := h

theorem HBInst.Ok.freed (h : i.Ok) (ser : Nat) (pl : Place) (eaten : Nat) : (i.freed ser pl eaten).Ok := by
  unfold HBInst.freed
  split
  · exact h
  · exact ⟨(freeSamples_length ..).trans h.1, ofType_freeSamples ser pl allWritten h.2⟩

theorem HBInst.ok_fresh (v : Variant) : (HBInst.fresh v).Ok :=
  ⟨List.length_replicate, fun _ _ hz => by rw [List.eq_of_mem_replicate hz]; rfl⟩

theorem HBInst.ok_default : ({} : HBInst).Ok := HBInst.ok_fresh .cplx

theorem hbDec2_ok (tb : List Real64) {x : List Cplx} (hx : OfType i.variant x) (h : i.Ok) : (hbDec2 tb i x).i.Ok := by
  induction x generalizing i with
  | nil => exact h
  | cons z x ih =>
    rw [hbDec2_cons]
    exact ih (i := (i.push z).withToggle _) (fun hv y hy => hx hv y (List.mem_cons_of_mem z hy))
      ((h.push fun hv => hx hv z List.mem_cons_self).withToggle _)

theorem hbInt2_ok (tb : List Real64) (room : Nat) {x : List Cplx} (hx : OfType i.variant x) (h : i.Ok) : (hbInt2 tb room i x).i.Ok := by
  induction x generalizing i room with
  | nil => exact h
  | cons z x ih =>
    rw [hbInt2]
    split
    · exact h
    · exact ih (i := i.push z) (room - 2) (fun hv y hy => hx hv y (List.mem_cons_of_mem z hy))
        (h.push fun hv => hx hv z List.mem_cons_self)

theorem HBInst.Ok.commit {x : List Cplx} {r : HbLoop} (h : r.i.Ok) (ser : Nat) (pl : Place) (bad : Bool) :
    ((hbRun ser pl x r).commit bad).Ok := by
  cases bad
  · exact h
  · exact h.freed ser pl _

end

/-! ### Stages (R61) -/

/-- A run's component is well formed as the rules compute it and freed. -/
structure Run.Keeps {σ : Type} (r : Run σ) (P : σ → Prop) : Prop where
  st : P r.st
  freed : P r.freed

theorem Run.Keeps.commit {σ : Type} {r : Run σ} {P : σ → Prop} (h : r.Keeps P) (bad : Bool) : P (r.commit bad) := by
  cases bad
  · exact h.st
  · exact h.freed

section
variable (s : State) (pl : Place) {k : StageInst} (x : List Cplx) (h : k.Ok s.cfg)
include h

theorem State.decStage_ok : (s.decStage pl k x).Keeps (StageInst.Ok s.cfg) := by
  cases k with
  | hb i =>
    have hi := hbDec2_ok s.cfg.hb45 (ofType_outputAs i.variant x) h
    exact ⟨hi, hi.freed _ _ _⟩
  | fir f r =>
    obtain ⟨hb, hok, hr, hphase⟩ := h
    have hf := firDecim_ok (s.coefs f) (ofType_outputAs f.variant x) hok r
    obtain ⟨-, -, -, hsame⟩ := firDecim_spec (s.coefs f) r f (outputAs f.variant x)
    have hlt : (firDecim (s.coefs f) r f (outputAs f.variant x)).f.phase < r := by
      rw [firDecim_f _ _ hphase]
      exact Nat.mod_lt _ (by omega)
    exact ⟨⟨hsame.1.trans hb, hf, hr, hlt⟩, hsame.1.trans hb, hf.freed _ _ _ _, hr, hlt⟩

theorem State.intStage_ok : (s.intStage pl k x).Keeps (StageInst.Ok s.cfg) := by
  cases k with
  | hb i =>
    have hi := hbInt2_ok s.cfg.hb45 s.cfg.maxBlock (ofType_outputAs i.variant x) h
    exact ⟨hi, hi.freed _ _ _⟩
  | fir f r =>
    obtain ⟨hb, hok, hr, hphase⟩ := h
    set g := f.grown x.length with hg
    have hx : OfType g.variant (outputAs f.variant x) := by
      rw [hg, FilterInst.grown_variant]
      exact ofType_outputAs f.variant x
    have hf := firInterp_ok (s.coefs g) hx (hok.grown x.length) r s.cfg.maxBlock
    obtain ⟨-, -, hsame, hkept⟩ := firInterp_spec (s.coefs g) r s.cfg.maxBlock g (outputAs f.variant x)
    have hbound : (firInterp (s.coefs g) r s.cfg.maxBlock g (outputAs f.variant x)).f.bound = true :=
      hsame.1.trans ((f.grown_bound _).trans hb)
    have hlt : (firInterp (s.coefs g) r s.cfg.maxBlock g (outputAs f.variant x)).f.phase < r := by
      rw [hkept, hg, f.grown_phase]
      exact hphase
    exact ⟨⟨hbound, hf, hr, hlt⟩, hbound, hf.freed _ _ _ _, hr, hlt⟩

end

/-- A cascade is well formed stage by stage, when each stage's run is. -/
theorem runStages_ok {P : StageInst → Prop} {step : Place → StageInst → List Cplx → Run StageInst}
    (hstep : ∀ pl k x, P k → (step pl k x).Keeps P) (pl : Place) {st : List StageInst} (x : List Cplx) (h : ∀ k ∈ st, P k) :
    (runStages step pl st x).Keeps fun tu => ∀ k ∈ tu, P k := by
  induction st generalizing x with
  | nil => exact ⟨nofun, nofun⟩
  | cons k st ih =>
    obtain ⟨hk, hst⟩ := List.forall_mem_cons.mp h
    have hhead := hstep (st.length :: pl) k x hk
    have htail := ih (step (st.length :: pl) k x).out hst
    exact ⟨List.forall_mem_cons.mpr ⟨hhead.st, htail.st⟩, List.forall_mem_cons.mpr ⟨hhead.freed, htail.freed⟩⟩

theorem State.runDec_ok (s : State) (pl : Place) {st : List StageInst} (x : List Cplx) (h : ∀ k ∈ st, k.Ok s.cfg) :
    (s.runDec pl st x).Keeps fun tu => ∀ k ∈ tu, k.Ok s.cfg := runStages_ok (fun pl _ x => s.decStage_ok pl x) pl x h

theorem State.runInt_ok (s : State) (pl : Place) {st : List StageInst} (x : List Cplx) (h : ∀ k ∈ st, k.Ok s.cfg) :
    (s.runInt pl st x).Keeps fun tu => ∀ k ∈ tu, k.Ok s.cfg := runStages_ok (fun pl _ x => s.intStage_ok pl x) pl x h

/-! ### Tables (R36, R92) -/

theorem State.TablesOk.length {s : State} (h : s.TablesOk) {t : Nat} {tb : Table} (ht : s.table t = some tb) :
    1 ≤ tb.val.length ∧ tb.val.length ≤ s.cfg.maxTaps := by
  refine h (some tb) ?_ tb rfl
  rw [State.table, List.getD_eq_getElem?_getD] at ht
  cases hi : s.ct[t]? with
  | none => rw [hi] at ht; cases ht
  | some o =>
    rw [hi] at ht
    exact ht ▸ List.mem_of_getElem? hi

/-- A stage built from a descriptor whose table exists is well formed (R221, R224, R254). -/
theorem State.freshStage_ok {s : State} (h : s.TablesOk) (v : Variant) {d : StageDesc} (hr : d.ratioOk = true)
    (ht : ∀ r t, d = .fir r t → (s.table t).isSome = true) : (s.freshStage v d).Ok s.cfg := by
  cases d with
  | hb => exact HBInst.ok_fresh v
  | fir r t =>
    obtain ⟨tb, htb⟩ := Option.isSome_iff_exists.mp (ht r t rfl)
    obtain ⟨hpos, hmax⟩ := h.length htb
    have hr : 2 ≤ r := of_decide_eq_true hr
    rw [State.freshStage, htb]
    exact ⟨rfl, FilterInst.ok_fresh v t hpos hmax, hr, Nat.lt_of_lt_of_le Nat.zero_lt_two hr⟩

theorem State.freshStages_ok {s : State} (h : s.TablesOk) (v : Variant) {ds : List StageDesc} (hr : ∀ d ∈ ds, d.ratioOk = true)
    (ht : s.SlotsFilled ds) : ∀ k ∈ ds.map (s.freshStage v), k.Ok s.cfg := by
  intro k hk
  obtain ⟨d, hd, rfl⟩ := List.mem_map.mp hk
  exact State.freshStage_ok h v (hr d hd) (ht d hd)

theorem freedStages_ok {p : Params} (ser : Nat) (pl : Place) {st : List StageInst} (h : ∀ k ∈ st, k.Ok p) :
    ∀ k ∈ freedStages ser pl st, k.Ok p := by
  intro k hk
  obtain ⟨j, hj, rfl⟩ := List.mem_mapIdx.mp hk
  have hok := h _ (List.getElem_mem hj)
  generalize st[j] = m at hok
  cases m with
  | hb i => exact HBInst.Ok.freed hok ser _ 1
  | fir f r =>
    obtain ⟨hb, hf, hr, hphase⟩ := hok
    exact ⟨hb, FilterInst.Ok.freed hf ser _ _ _, hr, hphase⟩

/-! ### The noise blanker (R65) -/

/-- A sample keeps a blanker well formed (R333). -/
theorem NBState.Ok.sampled {b : NBState} (h : b.Ok) (p : Params) (thr : Real64) (x : Cplx) : (b.sampled p thr x).Ok := by
  intro hv
  rw [NBState.sampled_eq] at hv ⊢
  obtain ⟨hw, hh, hS, hM, hidx, hseen, hramp, hraise⟩ := h hv
  have hrampAt : b.st ≠ .normal → b.rampAt + 1 ≤ b.h := by
    intro hst
    unfold NBState.rampAt
    cases hb : b.st with
    | normal => exact absurd hb hst
    | pulseActive => simp; omega
    | windowRaising => simpa using hraise hb
  refine ⟨hw, hh, (NBState.lineAfter_length ..).trans hS, (List.length_set ..).trans hM, Nat.mod_lt _ (by omega), ?_, ?_, ?_⟩
  · dsimp only
    split <;> omega
  · dsimp only
    split
    · exact hramp
    · next hn => exact hrampAt fun hst => hn (.inr hst)
  · dsimp only
    intro hst
    split at hst
    · cases hst
    next hpulse =>
      split at hst
      · cases hst
      next hstay =>
        rw [if_neg (by tauto)]
        have := hrampAt fun hn => hstay (.inl hn)
        exact lt_of_le_of_ne this fun he => hstay (.inr he)

theorem State.runNb_ok (s : State) {b : NBState} (x : List Cplx) (h : b.Ok) : (s.runNb b x).Keeps NBState.Ok := by
  have hst : (s.runNb b x).st.Ok := by
    change (nbLoop ..).b.Ok
    rw [nbLoop_b]
    induction x generalizing b with
    | nil => exact h
    | cons z x ih => exact ih (h.sampled _ _ z)
  refine ⟨hst, fun hv => ?_⟩
  obtain ⟨hw, hh, hS, hM, hrest⟩ := hst hv
  exact ⟨hw, hh, (freeSamples_length ..).trans hS, (freeReals_length ..).trans hM, hrest⟩

theorem NBState.ok_fresh {w : Nat} (h : 2 ≤ w) : (NBState.fresh w).Ok :=
  fun _ => ⟨h, rfl, List.length_replicate, List.length_replicate, by simp only [NBState.fresh]; omega, Nat.zero_le _,
    Nat.zero_le _, fun h => by cases h⟩

/-! ### The AGC (R66) -/

/-- What a sample leaves of an AGC's shape (R303). -/
theorem agcStep_shape (p : Params) (cx : Bool) (mo rg : Real64) (g : AGCState) (x : Cplx) :
    let u := (agcStep p cx mo rg g x).g
    u.valid = g.valid ∧ u.len = g.len ∧ u.buf.length = g.buf.length ∧ u.indexRead = (g.indexRead + 1) % g.len ∧
      u.indexStart = g.indexStart := by
  have hlen (y : Cplx) : (g.buf.set g.indexRead y).length = g.buf.length := List.length_set ..
  dsimp only [agcStep]
  rw [AGCState.released_if, AGCState.gainStep_eq, AGCState.corrected_if]
  exact ⟨rfl, rfl, hlen x, rfl, rfl⟩

theorem agcStep_ok (p : Params) (cx : Bool) (mo rg : Real64) {g : AGCState} (x : Cplx) (h : g.Ok) :
    (agcStep p cx mo rg g x).g.Ok := by
  obtain ⟨hv, hl, hb, hr, hs⟩ := agcStep_shape p cx mo rg g x
  intro hvalid
  obtain ⟨hpos, hlen, hread, hstart⟩ := h (hv ▸ hvalid)
  rw [hl, hb, hr, hs]
  exact ⟨hpos, hlen, Nat.mod_lt _ hpos, hstart⟩

theorem agcLoop_ok (p : Params) (cx : Bool) (mo rg : Real64) {g : AGCState} (x : List Cplx) (h : g.Ok) :
    (agcLoop p cx mo rg g x).g.Ok := by
  induction x generalizing g with
  | nil => exact h
  | cons z x ih => exact ih (agcStep_ok p cx mo rg z h)

theorem State.runAgc_ok (s : State) {g : AGCState} (cx : Bool) (x : List Cplx) (h : g.Ok) : (s.runAgc g cx x).Keeps AGCState.Ok := by
  have hst : (s.runAgc g cx x).st.Ok := agcLoop_ok s.cfg cx _ _ x (g := { g with alpha := _ }) h
  refine ⟨hst, fun hv => ?_⟩
  obtain ⟨hpos, hlen, hread, hstart⟩ := hst hv
  exact ⟨hpos, (freeSamples_length ..).trans hlen, hread, hstart⟩

theorem AGCState.ok_fresh (fs rg : Real64) {n : Nat} (fm : Bool) (h : 1 ≤ n) : (AGCState.fresh fs rg n fm).Ok :=
  fun _ => ⟨h, List.length_replicate, h, h⟩

/-! ### The notch (R68) -/

theorem loudest_mem {avg : List Real64} {bins : List Nat} {k : Nat} (h : loudest avg bins = some k) : k ∈ bins := by
  cases bins with
  | nil => cases h
  | cons b bins =>
    have hfold (best : Nat) (l : List Nat) :
        l.foldl (fun best j => if (avg.getD best .zero).lt (avg.getD j .zero) then j else best) best ∈ best :: l := by
      induction l generalizing best with
      | nil => exact List.mem_cons_self
      | cons j l ih =>
        rw [List.foldl_cons]
        split
        · exact List.mem_cons_of_mem best (ih j)
        · rcases List.mem_cons.mp (ih best) with hb | hb
          · exact hb.symm ▸ List.mem_cons_self
          · exact List.mem_cons_of_mem best (List.mem_cons_of_mem j hb)
    cases h
    exact hfold b bins

/-- The candidates are searchable bins (R366). -/
theorem candidates_range (p : Params) (ks : Option Int) (avg : List Real64) :
    (∀ q ∈ (candidates p ks avg).1, 1 ≤ q ∧ q < p.anNfft / 2) ∧ ∀ q ∈ (candidates p ks avg).2, 1 ≤ q ∧ q < p.anNfft / 2 := by
  have hrange {k : Nat} (hk : k ∈ searchBins p ks) : 1 ≤ k ∧ k < p.anNfft / 2 := by
    obtain ⟨hpos, hlt, -⟩ := mem_searchBins.mp hk
    exact ⟨hpos, hlt⟩
  unfold candidates
  dsimp only
  split
  · exact ⟨nofun, nofun⟩
  next k hk =>
    refine ⟨fun q hq => ?_, fun q hq => ?_⟩
    · cases hq
      exact hrange (loudest_mem hk)
    · exact hrange (List.mem_filter.mp (loudest_mem hq)).1

/-- The hysteresis keeps a slot well formed (R367). -/
theorem NotchSlot.Ok.tracked {p : Params} {x : NotchSlot} (h : x.Ok p) (hp : p.anHmin ≤ p.anHmax) {cand : Option Nat}
    (hc : ∀ q ∈ cand, 1 ≤ q ∧ q < p.anNfft / 2) : (x.tracked p cand).Ok p := by
  obtain ⟨hmin, hmax, -, htgt, -⟩ := h
  have hnext : ∀ q ∈ (x.tracked p cand).tgt, 1 ≤ q ∧ q < p.anNfft / 2 := by
    have hthree : (x.tracked p cand).tgt = none ∨ (x.tracked p cand).tgt = cand ∨ (x.tracked p cand).tgt = x.tgt := by
      simp only [NotchSlot.tracked]
      split_ifs <;> simp
    rcases hthree with h | h | h <;> rw [h]
    · nofun
    · exact hc
    · exact htgt
  refine ⟨?_, ?_, ?_, hnext, hnext⟩
  · simp only [NotchSlot.tracked]
    split <;> omega
  · simp only [NotchSlot.tracked]
    split <;> omega
  · cases cand with
    | none => exact Int.le_refl _
    | some q => exact (Int.natCast_nonneg q).trans' (by decide)

/-- What the engine asks of the notch's parameters and does not check (R362). -/
structure NotchSound (p : Params) : Prop where
  hop : 1 ≤ p.anB
  counter : p.anHmin ≤ p.anHmax

theorem NotchState.Ok.hop {p : Params} {t : NotchState} (hp : NotchSound p) (h : t.valid = true → t.blk.length = p.anNfft ∧
    t.avg.length = p.anNfft / 2 + 1 ∧ t.slot0.Ok p ∧ t.slot1.Ok p ∧ t.kernel.length = p.anNfft ∧ t.dly.length = p.anExtraDelay)
    (ks : Option Int) : (t.hop p ks).1.Ok p := by
  rw [NotchState.hop_eq]
  intro hv
  obtain ⟨hblk, havg, h0, h1, hkernel, hdly⟩ := h hv
  obtain ⟨hc0, hc1⟩ := candidates_range p ks (notchAverage p t.avg (t.hopSpectrum p))
  refine ⟨?_, hp.hop, ?_, h0.tracked hp.counter hc0, h1.tracked hp.counter hc1, ?_, ?_⟩
  · simp [slide, hblk]
  · simp [notchAverage, havg]
  · simp only [NotchState.hopKernel]
    split
    · exact hkernel
    · simp [notchKernel]
  · simp [NotchState.hopLine, hdly]

theorem notchLoop_ok {p : Params} (hp : NotchSound p) (ks : Option Int) (room : Nat) {t : NotchState} (x : List Cplx) (h : t.Ok p) :
    (notchLoop p ks room t x).t.Ok p := by
  induction x generalizing room t with
  | nil => exact h
  | cons z x ih =>
    rw [notchLoop]
    split
    · exact h
    have hblk : (t.collect p z.re).blk.length = t.blk.length := List.length_set ..
    dsimp only
    split
    next hfull =>
      refine ih (room - p.anB) (NotchState.Ok.hop hp (fun hv => ?_) ks)
      obtain ⟨hlen, -, hrest⟩ := h hv
      exact ⟨hblk.trans hlen, hrest⟩
    next hopen =>
      refine ih room fun hv => ?_
      obtain ⟨hlen, hfill, hrest⟩ := h hv
      exact ⟨hblk.trans hlen, lt_of_le_of_ne hfill hopen, hrest⟩

theorem State.runNotch_ok {s : State} (hp : NotchSound s.cfg) {t : NotchState} (x : List Cplx) (h : t.Ok s.cfg) :
    (s.runNotch t x).Keeps (NotchState.Ok s.cfg) := by
  have hst : (s.runNotch t x).st.Ok s.cfg := notchLoop_ok hp _ _ x h
  refine ⟨hst, fun hv => ?_⟩
  obtain ⟨hblk, hfill, havg, h0, h1, hkernel, hdly⟩ := hst hv
  refine ⟨(freeReals_length ..).trans hblk, hfill, ?_, h0, h1, ?_, (freeReals_length ..).trans hdly⟩
  · simp only [State.runNotch, NotchState.freed]
    split
    · exact havg
    · exact (freeReals_length ..).trans havg
  · simp only [State.runNotch, NotchState.freed]
    split
    · exact (freeSamples_length ..).trans hkernel
    · exact hkernel

theorem NotchState.ok_fresh {p : Params} (hp : NotchSound p) (fs : Real64) : (NotchState.fresh p fs).Ok p := by
  have hslot : (NotchSlot.fresh p).Ok p := ⟨Int.le_refl _, hp.counter, Int.le_refl _, nofun, nofun⟩
  refine fun _ => ⟨List.length_replicate, hp.hop, List.length_replicate, hslot, hslot, ?_, List.length_replicate⟩
  change (buildKernel p none none).length = p.anNfft
  rw [buildKernel_eq_notchKernel]
  simp [notchKernel]

/-! ### The demodulator (R63) -/

/-- A tuned receive filter on a table that exists (R254, R257). -/
theorem State.freshRxf_ok {s : State} (h : s.TablesOk) {t : Nat} (ht : (s.table t).isSome = true) (f : Real64) (lower : Bool) :
    (s.freshRxf t f lower).Ok s.cfg := by
  obtain ⟨tb, htb⟩ := Option.isSome_iff_exists.mp ht
  obtain ⟨hpos, hmax⟩ := h.length htb
  rw [State.freshRxf, htb]
  refine fun _ => ⟨hpos, hmax, List.length_replicate, hpos, fun u hu => ?_, fun hv => by cases hv⟩
  cases hu
  exact tune_length ..

/-- The refresh keeps a demodulator well formed (R257). -/
theorem State.refreshed_ok {s : State} (h : s.TablesOk) {c : BankRegs} {d : DemodState} (hd : d.Ok s.cfg)
    (ht : d.stale c = true → (s.table c.rxfTab.toNat).isSome = true) : (s.refreshed d c).Ok s.cfg := by
  unfold State.refreshed
  split
  next hstale =>
    have hfresh := State.freshRxf_ok h (ht hstale) c.rxfFreq d.rxfLower
    intro hv
    obtain ⟨hm, hdec, hint, hb, hvar, hok⟩ := hd hv
    refine ⟨hm, hdec, hint, ?_⟩
    dsimp only
    split
    · exact ⟨rfl, rfl, hfresh⟩
    next hkeep =>
      refine ⟨hb, hvar, fun _ => ?_⟩
      obtain ⟨hpos, hmax, hlen, hcur, htuned, -⟩ := hok hb
      obtain ⟨-, -, -, -, hfreshTuned, -⟩ := hfresh rfl
      have htaps : (s.freshRxf c.rxfTab.toNat c.rxfFreq d.rxfLower).taps = d.rxf.taps := by
        have hsame : s.rxfLen c = d.rxf.taps := by
          rw [State.rebinds, hstale, Bool.true_and, decide_eq_true_eq, not_not] at hkeep
          exact hkeep
        rw [← hsame, State.rxfLen, State.freshRxf]
        cases s.table c.rxfTab.toNat <;> rfl
      exact ⟨hpos, hmax, hlen, hcur, fun u hu => (hfreshTuned u hu).trans htaps, fun hreal => by
        rw [hvar] at hreal
        cases hreal⟩
  · exact hd

/-- What a detector leaves alone (R258 to R265). -/
theorem detect_frame (p : Params) (r : ModeRec) (d : DemodState) (z : Cplx) :
    (detect p r d z).1 = { d with
      amDc := (detect p r d z).1.amDc, fmPrev := (detect p r d z).1.fmPrev, fmX1 := (detect p r d z).1.fmX1,
      fmY1 := (detect p r d z).1.fmY1 } := by
  unfold detect
  split <;> rfl

theorem DemodState.Ok.detect {p : Params} {d : DemodState} (h : d.Ok p) (r : ModeRec) (z : Cplx) : (detect p r d z).1.Ok p := by
  rw [detect_frame]
  exact h

theorem DemodState.Ok.filtered {p : Params} {d : DemodState} (h : d.Ok p) (z : Cplx) :
    ({ d with rxf := d.rxf.next z } : DemodState).Ok p := by
  intro hv
  obtain ⟨hm, hdec, hint, hb, hvar, hok⟩ := h hv
  exact ⟨hm, hdec, hint, hb, hvar, hok.put_advance fun hreal => by rw [hvar] at hreal; cases hreal⟩

theorem demodLoop_ok {p : Params} (r : ModeRec) (tb : List Real64) (useF : Bool) {d : DemodState} (x : List Cplx) (h : d.Ok p) :
    (demodLoop p r tb useF d x).d.Ok p := by
  induction x generalizing d with
  | nil => exact h
  | cons z x ih =>
    cases useF
    · exact ih (h.detect r z)
    · exact ih ((h.filtered z).detect r _)

/-- The values a DEMOD frees are of the demodulator's types (R11). -/
theorem DemodState.Ok.freed {p : Params} {d : DemodState} (h : d.Ok p) (ser : Nat) (k : ModeKind) {dec : List StageInst}
    (hdec : ∀ x ∈ dec, x.Ok p) (refreshed rebound : Bool) (cur0 eaten count : Nat) :
    (d.freed ser k dec refreshed rebound cur0 eaten count).Ok p := by
  intro hv
  obtain ⟨hm, -, hint, hb, hvar, hok⟩ := h hv
  refine ⟨hm, hdec, hint, ?_⟩
  unfold DemodState.freed
  dsimp only
  split
  · exact ⟨hb, hvar, FilterInst.Ok.freedTuned (FilterInst.Ok.freed hok ser _ cur0 _) ser _⟩
  · exact ⟨hb, hvar, FilterInst.Ok.freed hok ser _ cur0 _⟩

theorem State.refreshed_frame (s : State) (d : DemodState) (c : BankRegs) :
    s.refreshed d c = { d with
      rxf := (s.refreshed d c).rxf, rxfTab := (s.refreshed d c).rxfTab, rxfFreq := (s.refreshed d c).rxfFreq } := by
  unfold State.refreshed
  split <;> rfl

theorem State.runDemod_ok {s : State} (h : s.TablesOk) {c : BankRegs} {d : DemodState} (hd : d.Ok s.cfg) (hv : d.valid = true)
    (ht : d.stale c = true → (s.table c.rxfTab.toNat).isSome = true) (cap : Nat) (x : List Cplx) :
    (s.runDemod c d cap x).Keeps (DemodState.Ok s.cfg) := by
  have hd1 := State.refreshed_ok h hd ht
  have hv1 : (s.refreshed d c).valid = true := by rw [State.refreshed_frame]; exact hv
  obtain ⟨hm, hdec, hrest⟩ := hd1 hv1
  have hstages := s.runDec_ok (10 :: placeDemod) x hdec
  have hloop := demodLoop_ok (s.cfg.modeRec d.mode) (s.coefs (s.refreshed d c).rxf)
    (useFilter s.cfg (s.cfg.modeRec d.mode).kind c.rxfBw) (s.runDec (10 :: placeDemod) (s.refreshed d c).dec x).out
    (d := { s.refreshed d c with dec := (s.runDec (10 :: placeDemod) (s.refreshed d c).dec x).st })
    fun _ => ⟨hm, hstages.st, hrest⟩
  have hst : (s.runDemod c d cap x).st.Ok s.cfg := by
    simp only [State.runDemod]
    split
    · exact hloop
    · exact hloop
  exact ⟨hst, DemodState.Ok.freed hst _ _ hstages.freed _ _ _ _ _⟩

theorem State.runRestore_ok (s : State) {d : DemodState} (hd : d.Ok s.cfg) (hv : d.valid = true) (x : List Cplx) :
    (s.runRestore d x).Keeps (DemodState.Ok s.cfg) := by
  obtain ⟨hm, hdec, hint, hrest⟩ := hd hv
  have hstages := s.runInt_ok placeRestore x hint
  exact ⟨fun _ => ⟨hm, hdec, hstages.st, hrest⟩, fun _ => ⟨hm, hdec, hstages.freed, hrest⟩⟩

end Sys2Proof.Machine
end

section
/-! PROOFS. No step breaks what R30 to R36 and R61 to R68 say of tables, instances and banks; the reset state meets it (R78). -/

namespace Sys2Proof

/-! ### The ratios of a well-formed configuration (R221, R252) -/

theorem Params.cascade_ratioOk {p : Params} (h : p.tablesOk = true) {n : Nat} {w : Bool} {ds : List StageDesc}
    (hds : p.cascade n w = some ds) : ∀ d ∈ ds, d.ratioOk = true := by
  simp only [Params.tablesOk, Bool.and_eq_true, List.all_eq_true] at h
  obtain ⟨⟨⟨-, hchains⟩, -⟩, -⟩ := h
  obtain ⟨r, hr, rfl⟩ := Option.map_eq_some_iff.mp hds
  intro d hd
  obtain ⟨e, he, rfl⟩ := List.mem_map.mp hd
  have hok := hchains r (List.mem_of_find?_eq_some hr) e he
  cases e with
  | stage d => exact hok
  | final => rfl

/-- A stage list that a mode record gives, listed or the default, has ratios in range (R252). -/
theorem stageList_ratioOk {listed : List (Nat × Option (List StageDesc))} (h : listed.all overrideOk = true) {n : Nat}
    {ds : List StageDesc} (hds : (listed.lookup n).getD (defaultStages n) = some ds) : ∀ d ∈ ds, d.ratioOk = true := by
  cases hl : listed.lookup n with
  | none =>
    rw [hl, Option.getD_none, defaultStages] at hds
    split at hds
    · cases hds
      exact fun d hd => List.eq_of_mem_replicate hd ▸ rfl
    · cases hds
  | some o =>
    rw [hl, Option.getD_some] at hds
    subst hds
    obtain ⟨l₁, l₂, rfl, -⟩ := List.lookup_eq_some_iff.mp hl
    have hok := List.all_eq_true.mp h (n, some ds) (by simp)
    simp only [overrideOk, Bool.and_eq_true, List.all_eq_true] at hok
    exact hok.1

theorem Params.modeRec_ok {p : Params} (h : p.tablesOk = true) (m : Nat) : (p.modeRec m).ok = true := by
  simp only [Params.tablesOk, Bool.and_eq_true, List.all_eq_true] at h
  obtain ⟨⟨-, hmodes⟩, -⟩ := h
  rw [Params.modeRec, List.getD_eq_getElem?_getD]
  cases hm : p.modes[m]? with
  | none => rfl
  | some r => exact hmodes r (List.mem_of_getElem? hm)

theorem ModeRec.decList_ratioOk {r : ModeRec} (h : r.ok = true) {rate : Real64} {ds : List StageDesc}
    (hds : r.decList rate = some ds) : ∀ d ∈ ds, d.ratioOk = true := by
  obtain ⟨n, -, hn⟩ := Option.bind_eq_some_iff.mp hds
  exact stageList_ratioOk (Bool.and_eq_true_iff.mp h).1 hn

theorem Params.intList_ratioOk {p : Params} {r : ModeRec} (h : r.ok = true) {ds : List StageDesc}
    (hds : p.intList r = some ds) : ∀ d ∈ ds, d.ratioOk = true := by
  obtain ⟨n, -, hn⟩ := Option.bind_eq_some_iff.mp hds
  exact stageList_ratioOk (Bool.and_eq_true_iff.mp h).2 hn

end Sys2Proof

namespace Sys2Proof.Machine

theorem State.tablesOk_of_configOk {s : State} (h : s.configOk = true) : s.cfg.tablesOk = true := by
  simp only [State.configOk, Params.ok, Bool.and_eq_true] at h
  obtain ⟨⟨⟨-, htables⟩, -⟩, -⟩ := h
  exact htables

theorem State.notchSound_of_configOk {s : State} (h : s.configOk = true) : NotchSound s.cfg := by
  simp only [State.configOk, Params.ok, Params.notchOk, Bool.and_eq_true, decide_eq_true_eq] at h
  exact ⟨by omega, by omega⟩

theorem State.slotsFilled_of_descChecks {s : State} {ds : List StageDesc} (h : ∀ c ∈ s.descChecks ds, c.ok = true) :
    s.SlotsFilled ds := by
  rintro d hd r t rfl
  exact h (s.slotCheck t) (List.mem_filterMap.mpr ⟨_, hd, rfl⟩)

/-! ### The invariant, by what each number names -/

theorem Bank.ok_default (p : Params) : ({} : Bank).Ok p := ⟨nofun, nofun, nofun, nofun, nofun⟩

theorem getD_mem_or {α : Type} (l : List α) (i : Nat) (d : α) : l.getD i d ∈ l ∨ l.getD i d = d := by
  rw [List.getD_eq_getElem?_getD]
  cases h : l[i]? with
  | none => exact .inr rfl
  | some a => exact .inl (List.mem_of_getElem? h)

/-- A property that the default has holds of a list's members when it holds of its entries by number. -/
theorem forall_mem_iff_getD {α : Type} {P : α → Prop} {l : List α} {d : α} (hd : P d) : (∀ a ∈ l, P a) ↔ ∀ i, P (l.getD i d) := by
  refine ⟨fun h i => ?_, fun h a ha => ?_⟩
  · rcases getD_mem_or l i d with hm | he
    · exact h _ hm
    · rw [he]
      exact hd
  · obtain ⟨i, hi, rfl⟩ := List.getElem_of_mem ha
    simpa [hi] using h i

/-- Replacing an entry by one with the property keeps it for every number. -/
theorem getD_set_of_forall {α : Type} {P : α → Prop} {l : List α} {a d : α} (hd : P d) (h : ∀ b ∈ l, P b) (ha : P a) (i j : Nat) :
    P ((l.set i a).getD j d) := by
  refine (forall_mem_iff_getD hd).mp (fun b hb => ?_) j
  rcases List.mem_or_eq_of_mem_set hb with hb | rfl
  · exact h b hb
  · exact ha

/-- The invariant of the components, each by its number (R29, R60). -/
theorem State.componentsOk_iff (s : State) : s.ComponentsOk ↔
    s.TablesOk ∧ (∀ j, (s.filter j).Ok s.cfg) ∧ (∀ j, (s.half j).Ok) ∧ (∀ b, (s.bank b).Ok s.cfg) ∧
      ∀ b, 1 ≤ b → (s.bank b).notch.valid = false := by
  have hfi := forall_mem_iff_getD (P := FilterInst.Ok s.cfg) (l := s.fi) (d := {}) (FilterInst.ok_of_unbound rfl)
  have hhb := forall_mem_iff_getD (P := HBInst.Ok) (l := s.hb) HBInst.ok_default
  have hch := forall_mem_iff_getD (P := fun c : Channel => c.bank.Ok s.cfg) (l := s.chans) (d := {}) (Bank.ok_default s.cfg)
  exact and_congr_right' (and_congr hfi (and_congr hhb (and_congr hch Iff.rfl)))

/-- What an effect must put to keep the invariant. -/
def State.PutOk (s : State) (id : Nat) : Put → Prop
  | .nothing => True
  | .filter f => f.Ok s.cfg
  | .half h => h.Ok
  | .bank k _ => k.Ok s.cfg ∧ (1 ≤ id → k.notch.valid = false)

/-- Putting a well-formed thing keeps the invariant. -/
theorem State.ComponentsOk.placed {s : State} (h : s.ComponentsOk) {id : Nat} {p : Put} (hp : s.PutOk id p) :
    (∀ j, ((s.placed id p).filter j).Ok s.cfg) ∧ (∀ j, ((s.placed id p).half j).Ok) ∧
      (∀ b, ((s.placed id p).bank b).Ok s.cfg) ∧ ∀ b, 1 ≤ b → ((s.placed id p).bank b).notch.valid = false := by
  obtain ⟨-, hfi, hhb, hch, hnotch⟩ := s.componentsOk_iff.mp h
  obtain ⟨-, hfiMem, hhbMem, -⟩ := h
  cases p with
  | nothing => exact ⟨hfi, hhb, hch, hnotch⟩
  | filter f => exact ⟨getD_set_of_forall (FilterInst.ok_of_unbound rfl) hfiMem hp id, hhb, hch, hnotch⟩
  | half i => exact ⟨hfi, getD_set_of_forall HBInst.ok_default hhbMem hp id, hch, hnotch⟩
  | bank k r =>
    have hother {b : Nat} (hb : b ≠ id ∨ ¬id < s.nbanks) : (s.placed id (.bank k r)).bank b = s.bank b := by
      rcases hb with hb | hb
      · exact congrArg Channel.bank (State.placed_ne hb).2.2
      · simp [State.placed, State.bank, State.chan, List.set_eq_of_length_le (Nat.le_of_not_lt hb)]
    refine ⟨hfi, hhb, fun b => ?_, fun b hb => ?_⟩
    · by_cases hbid : b ≠ id ∨ ¬id < s.nbanks
      · exact hother hbid ▸ hch b
      · obtain ⟨rfl, hlt⟩ : b = id ∧ id < s.nbanks := by tauto
        rw [State.bank, State.chan_placed_bank k r hlt]
        exact hp.1
    · by_cases hbid : b ≠ id ∨ ¬id < s.nbanks
      · exact hother hbid ▸ hnotch b hb
      · obtain ⟨rfl, hlt⟩ : b = id ∧ id < s.nbanks := by tauto
        rw [State.bank, State.chan_placed_bank k r hlt]
        exact hp.2 hb

/-! ### What DEMOD leaves alone -/

/-- The sample loop writes the receive filter and the detectors' memory (R256). -/
theorem demodLoop_frame (p : Params) (r : ModeRec) (tb : List Real64) (useF : Bool) (d : DemodState) (x : List Cplx) :
    let u := (demodLoop p r tb useF d x).d
    u = { d with rxf := u.rxf, amDc := u.amDc, fmPrev := u.fmPrev, fmX1 := u.fmX1, fmY1 := u.fmY1 } := by
  induction x generalizing d with
  | nil => rfl
  | cons z x ih =>
    dsimp only [demodLoop]
    refine (ih _).trans ?_
    rw [detect_frame]
    cases useF <;> rfl

section
variable (s : State) (c : BankRegs) (d : DemodState) (cap : Nat) (x : List Cplx)

/-- DEMOD writes its stages, its filter, the detectors' memory and the codec's state beside what a refresh writes (R256, R268). -/
theorem State.runDemod_frame :
    let u := (s.runDemod c d cap x).st
    u = { s.refreshed d c with
      dec := u.dec, rxf := u.rxf, amDc := u.amDc, fmPrev := u.fmPrev, fmX1 := u.fmX1, fmY1 := u.fmY1, dv := u.dv } := by
  dsimp only [State.runDemod]
  have h := demodLoop_frame s.cfg (s.cfg.modeRec d.mode) (s.coefs (s.refreshed d c).rxf)
    (useFilter s.cfg (s.cfg.modeRec d.mode).kind c.rxfBw)
    { s.refreshed d c with dec := (s.runDec (10 :: placeDemod) (s.refreshed d c).dec x).st }
    (s.runDec (10 :: placeDemod) (s.refreshed d c).dec x).out
  dsimp only at h
  split <;> rw [h]

/-- The registers a refresh latches (R257). -/
theorem State.refreshed_latched :
    (s.refreshed d c).rxfTab = c.rxfTab.toNat ∧ (s.refreshed d c).rxfFreq = c.rxfFreq := by
  unfold State.refreshed
  split
  · exact ⟨rfl, rfl⟩
  next h =>
    rw [DemodState.stale, decide_eq_true_eq, not_or, not_not, not_not] at h
    exact ⟨h.1.symm, h.2.symm⟩

/-- After DEMOD the filter is up to date with its registers (R257). -/
theorem State.runDemod_stale : (s.runDemod c d cap x).st.stale c = false := by
  obtain ⟨htab, hfreq⟩ := s.refreshed_latched c d
  rw [State.runDemod_frame]
  refine decide_eq_false fun h => ?_
  rcases h with h | h
  · exact h htab.symm
  · exact h hfreq.symm

theorem State.runDemod_valid :
    (s.runDemod c d cap x).st.valid = d.valid ∧ (s.runDemod c d cap x).freed.valid = d.valid := by
  have h : (s.runDemod c d cap x).st.valid = d.valid := by rw [State.runDemod_frame, State.refreshed_frame]
  exact ⟨h, h⟩

end

/-! ### PIPERX (R401) -/

/-- What the invariant asks of a working copy. -/
structure State.PipeOk (s : State) (id : Nat) (p : Pipe) : Prop where
  bank : p.bank.Ok s.cfg
  freed : p.bankFreed.Ok s.cfg
  valid : p.bank.demod.valid = true
  table : p.bank.demod.stale (s.bankRegs id) = true → (s.table (s.bankRegs id).rxfTab.toNat).isSome = true
  notch : 1 ≤ id → p.bank.notch.valid = false ∧ p.bankFreed.notch.valid = false

theorem State.refreshChecks_table {s : State} {d : DemodState} {c : BankRegs} (h : ∀ k ∈ s.refreshChecks d c, k.ok = true)
    (hs : d.stale c = true) : (s.table c.rxfTab.toNat).isSome = true := by
  rw [State.refreshChecks, if_pos hs] at h
  exact h (s.slotCheck c.rxfTab.toNat) (by simp)

section
variable {s : State} {id : Nat} {p : Pipe}

theorem State.PipeOk.blank (h : s.PipeOk id p) : s.PipeOk id (s.pipeBlank p) := by
  unfold State.pipeBlank
  split
  · exact h
  · obtain ⟨⟨hst, hd, hnb, hagc, hno⟩, ⟨hst', hd', hnb', hagc', hno'⟩, hv, ht, hn⟩ := h
    have hr := s.runNb_ok p.x hnb
    exact ⟨⟨hst, hd, hr.st, hagc, hno⟩, ⟨hst', hd', hr.freed, hagc', hno'⟩, hv, ht, hn⟩

theorem State.PipeOk.chain (h : s.PipeOk id p) : s.PipeOk id (s.pipeChain p) := by
  obtain ⟨⟨hst, hrest⟩, ⟨hst', hrest'⟩, hv, ht, hn⟩ := h
  have hr := s.runDec_ok placeChain p.x hst
  exact ⟨⟨hr.st, hrest⟩, ⟨hr.freed, hrest'⟩, hv, ht, hn⟩

theorem State.PipeOk.frac (h : s.PipeOk id p) : s.PipeOk id (s.pipeFrac p) := by
  unfold State.pipeFrac
  split
  · obtain ⟨hb, hf, hv, ht, hn⟩ := h
    exact ⟨hb, hf, hv, ht, hn⟩
  · exact h

theorem State.PipeOk.agc (h : s.PipeOk id p) (cx : Bool) : s.PipeOk id (s.pipeAgc id cx p) := by
  obtain ⟨⟨hst, hd, hnb, hagc, hno⟩, ⟨hst', hd', hnb', hagc', hno'⟩, hv, ht, hn⟩ := h
  have hr := s.runAgc_ok cx p.x hagc
  exact ⟨⟨hst, hd, hnb, hr.st, hno⟩, ⟨hst', hd', hnb', hr.freed, hno'⟩, hv, ht, hn⟩

theorem State.PipeOk.demod (htables : s.TablesOk) (h : s.PipeOk id p) : s.PipeOk id (s.pipeDemod id p) := by
  obtain ⟨⟨hst, hd, hrest⟩, ⟨hst', hd', hrest'⟩, hv, ht, hn⟩ := h
  have hr := State.runDemod_ok htables hd hv ht s.cfg.maxBlock p.x
  refine ⟨⟨hst, hr.st, hrest⟩, ⟨hst', hr.freed, hrest'⟩, (s.runDemod_valid _ _ s.cfg.maxBlock _).1.trans hv, fun hs => ?_, hn⟩
  exact absurd ((s.runDemod_stale _ _ s.cfg.maxBlock _).symm.trans hs) (by decide)

theorem State.PipeOk.notchStage (hsound : NotchSound s.cfg) (h : s.PipeOk id p) (kind : ModeKind) :
    s.PipeOk id (s.pipeNotch id kind p) := by
  unfold State.pipeNotch
  split
  next hruns =>
    have h0 : id = 0 := by
      simp only [State.notchRuns, Bool.and_eq_true, decide_eq_true_eq] at hruns
      exact hruns.1.1
    obtain ⟨⟨hst, hd, hnb, hagc, hno⟩, ⟨hst', hd', hnb', hagc', hno'⟩, hv, ht, hn⟩ := h
    have hr := State.runNotch_ok hsound p.x hno
    exact ⟨⟨hst, hd, hnb, hagc, hr.st⟩, ⟨hst', hd', hnb', hagc', hr.freed⟩, hv, ht, fun h1 => by omega⟩
  · exact h

theorem State.PipeOk.restore (h : s.PipeOk id p) : s.PipeOk id (s.pipeRestore p) := by
  obtain ⟨⟨hst, hd, hrest⟩, ⟨hst', hd', hrest'⟩, hv, ht, hn⟩ := h
  obtain ⟨hm, hdec, hint, hrx⟩ := hd hv
  have hr := s.runInt_ok placeRestore p.x hint
  refine ⟨⟨hst, fun _ => ⟨hm, hdec, hr.st, hrx⟩, hrest⟩, ⟨hst', fun hv' => ?_, hrest'⟩, hv, ht, hn⟩
  obtain ⟨hm', hdec', -, hrx'⟩ := hd' hv'
  exact ⟨hm', hdec', hr.freed, hrx'⟩

end

/-- The pipeline keeps the invariant (R401). -/
theorem State.pipe_ok {s : State} (hsound : NotchSound s.cfg) (hs : s.ComponentsOk) {id : Nat}
    (hc : ∀ c ∈ s.pipeChecks id, c.ok = true) : s.PipeOk id (s.pipe id) := by
  obtain ⟨htables, -, -, hbanks, hnotch⟩ := s.componentsOk_iff.mp hs
  simp only [State.pipeChecks, State.demodChecks, List.append_assoc, List.cons_append, List.nil_append, List.forall_mem_cons,
    List.forall_mem_append, boundCheck_ok, Bool.and_eq_true] at hc
  obtain ⟨-, -, -, -, -, -, ⟨⟨⟨⟨-, hvalid⟩, -⟩, -⟩, -⟩, -, -, -, -, -, -, hrefresh, -⟩ := hc
  have htable := State.refreshChecks_table hrefresh
  refine State.pipe_induction (P := s.PipeOk id) ⟨hbanks id, hbanks id, hvalid, htable, fun h => ⟨hnotch id h, hnotch id h⟩⟩
    (fun p h => ?_) (fun p h => h.blank) (fun p h => h.chain) (fun p h => h.frac) (fun p h => ?_) (fun cx p h => h.agc cx)
    (fun p h => h.demod htables) (fun p h => h.notchStage hsound _) (fun p h => h.restore) (fun sig p h => ?_) (fun p h => ?_)
    (fun p h => ?_) _
  · exact ⟨h.bank, h.freed, h.valid, h.table, h.notch⟩
  · unfold State.pipeSmeter
    split
    · exact ⟨h.bank, h.freed, h.valid, h.table, h.notch⟩
    · exact h
  · unfold State.pipeSquelch
    split
    · exact ⟨h.bank, h.freed, h.valid, h.table, h.notch⟩
    · exact h
  · unfold State.pipeRms
    split
    · exact ⟨h.bank, h.freed, h.valid, h.table, h.notch⟩
    · exact h
  · exact ⟨h.bank, h.freed, h.valid, h.table, h.notch⟩

/-! ### Every command -/

section
variable {s : State} {id : Nat}

/-- A filter of the wanted length is well formed (R162). -/
theorem finit_putOk {v : Bool} (hc : ∀ c ∈ commandChecks (.finit v id) s, c.ok = true) :
    s.PutOk id (commandEffect (.finit v id) s).put := by
  have hn : 1 ≤ s.opN ∧ s.opN ≤ s.cfg.maxTaps := of_decide_eq_true (hc ⟨decide (1 ≤ s.opN ∧ s.opN ≤ s.cfg.maxTaps), .param, 0⟩ (by simp [commandChecks]))
  exact FilterInst.ok_fresh _ _ hn.1 hn.2

/-- A tuned table has its filter's length (R165). -/
theorem ftune_putOk (hs : s.ComponentsOk) {l : Bool} (hc : ∀ c ∈ commandChecks (.ftune l id) s, c.ok = true) :
    s.PutOk id (commandEffect (.ftune l id) s).put := by
  obtain ⟨-, hfi, -⟩ := s.componentsOk_iff.mp hs
  have htable : (s.tableCheck (s.filter id)).ok = true := hc _ (by simp [commandChecks])
  have hv : (s.filter id).variant = .cplx := of_decide_eq_true (hc ⟨decide ((s.filter id).variant = .cplx), .param, 0⟩ (by simp [commandChecks]))
  intro hb
  obtain ⟨hpos, hmax, hlen, hcur, -, -⟩ := hfi id hb
  refine ⟨hpos, hmax, hlen, hcur, fun t ht => ?_, fun hreal => ?_⟩
  · cases ht
    exact (s.tunedFor_length ..).trans (State.coefs_length htable)
  · exact absurd (hv.symm.trans hreal) (by decide)

variable (hs : s.ComponentsOk) (hconf : s.configOk = true)
include hs hconf

theorem chsel_putOk {w : Bool} (hc : ∀ c ∈ commandChecks (.chsel w id) s, c.ok = true) :
    s.PutOk id (commandEffect (.chsel w id) s).put := by
  obtain ⟨htables, -, -, hbanks, hnotch⟩ := s.componentsOk_iff.mp hs
  obtain ⟨-, hrest⟩ := hbanks id
  have hslots : s.SlotsFilled (s.selectedStages w) :=
    State.slotsFilled_of_descChecks fun c hcm => hc c (List.mem_append_right _ hcm)
  have hratio : ∀ d ∈ s.selectedStages w, d.ratioOk = true := by
    unfold State.selectedStages State.selected
    split
    next hz ds hrate hcascade => exact Params.cascade_ratioOk (State.tablesOk_of_configOk hconf) hcascade
    · nofun
  exact ⟨⟨State.freshStages_ok htables .cplx hratio hslots, hrest⟩, hnotch id⟩

theorem dminit_putOk (hc : ∀ c ∈ commandChecks (.dminit id) s, c.ok = true) :
    s.PutOk id (commandEffect (.dminit id) s).put := by
  obtain ⟨htables, -, -, hbanks, hnotch⟩ := s.componentsOk_iff.mp hs
  obtain ⟨hst, -, hrest⟩ := hbanks id
  have hmode := Params.modeRec_ok (State.tablesOk_of_configOk hconf) (s.bankRegs id).mode.toNat
  simp only [commandChecks, List.append_assoc, List.cons_append, List.nil_append, List.forall_mem_cons, List.forall_mem_append,
    decide_eq_true_eq] at hc
  obtain ⟨-, -, hm, -, -, hdecSome, hintSome, -, htab, hdecSlots, hintSlots, -⟩ := hc
  obtain ⟨ds, hds⟩ := Option.isSome_iff_exists.mp hdecSome
  obtain ⟨us, hus⟩ := Option.isSome_iff_exists.mp hintSome
  rw [hds] at hdecSlots
  rw [hus] at hintSlots
  have hdec := State.freshStages_ok htables .cplx (ModeRec.decList_ratioOk hmode hds) (State.slotsFilled_of_descChecks hdecSlots)
  have hint := State.freshStages_ok htables (audioOf (s.requestedMode id).kind) (Params.intList_ratioOk hmode hus)
    (State.slotsFilled_of_descChecks hintSlots)
  have hrxf := State.freshRxf_ok htables htab (s.bankRegs id).rxfFreq (s.requestedMode id).lower
  have hfresh : (s.freshDemod id (s.bankRegs id).mode.toNat s.opReal).Ok s.cfg := by
    refine fun _ => ⟨hm, ?_, ?_, rfl, rfl, hrxf⟩
    · change ∀ x ∈ (((s.requestedMode id).decList s.opReal).getD []).map (s.freshStage .cplx), x.Ok s.cfg
      rw [hds]
      exact hdec
    · change ∀ x ∈ ((s.cfg.intList (s.requestedMode id)).getD []).map (s.freshStage (audioOf (s.requestedMode id).kind)), x.Ok s.cfg
      rw [hus]
      exact hint
  refine ⟨⟨hst, ?_, hrest⟩, hnotch id⟩
  change (s.installedDemod id).Ok s.cfg
  unfold State.installedDemod
  dsimp only
  split
  · obtain ⟨hm, hdec, hint, hb, hvar, hok⟩ := hfresh rfl
    exact fun _ => ⟨hm, freedStages_ok _ _ hdec, freedStages_ok _ _ hint, hb, hvar,
      FilterInst.Ok.freedTuned (FilterInst.Ok.freed hok _ _ _ _) _ _⟩
  · exact hfresh

/-- Every command that completes puts what keeps the invariant. -/
theorem commandEffect_putOk {i : Instr} (hc : ∀ c ∈ commandChecks i s, c.ok = true) : s.PutOk i.id (commandEffect i s).put := by
  obtain ⟨htables, hfi, hhb, hbanks, hnotch⟩ := s.componentsOk_iff.mp hs
  have hsound := State.notchSound_of_configOk hconf
  cases i
  case nop => exact trivial
  case finit v id => exact finit_putOk hc
  case ftune l id => exact ftune_putOk hs hc
  case chsel w id => exact chsel_putOk hs hconf hc
  case dminit id => exact dminit_putOk hs hconf hc
  case fapply id => exact FilterInst.Ok.commit (firApply_ok _ (s.ofType_input _) (hfi id)) _ _ _ _
  case fdecim id => exact FilterInst.Ok.commit (firDecim_ok _ (s.ofType_input _) (hfi id) _) _ _ _ _
  case finterp id =>
    have hx : OfType ((s.filter id).grown s.opN).variant (s.input (s.filter id).variant) :=
      (s.filter id).grown_variant s.opN ▸ s.ofType_input _
    exact FilterInst.Ok.commit (firInterp_ok _ hx (FilterInst.Ok.grown (hfi id) _) _ _) _ _ _ _
  case fresamp id =>
    have hd : 1 ≤ s.op3 ∧ s.op3 ≤ s.cfg.maxTaps := of_decide_eq_true (hc (s.ratioCheck s.op3) (by simp [commandChecks, State.filterChecks]))
    have hx : OfType ((s.filter id).grown s.opN).variant (s.input (s.filter id).variant) :=
      (s.filter id).grown_variant s.opN ▸ s.ofType_input _
    exact FilterInst.Ok.commit (firResamp_ok _ hx (FilterInst.Ok.grown (hfi id) _) hd.1 _) _ _ _ _
  case hbinit v id => exact HBInst.ok_fresh _
  case hbdec2 id => exact HBInst.Ok.commit (hbDec2_ok _ (s.ofType_input _) (hhb id)) _ _ _
  case hbint2 id => exact HBInst.Ok.commit (hbInt2_ok _ _ (s.ofType_input _) (hhb id)) _ _ _
  case chrun id =>
    obtain ⟨hst, hrest⟩ := hbanks id
    exact ⟨⟨(s.runDec_ok placeChain (s.input .cplx) hst).commit _, hrest⟩, hnotch id⟩
  case demod id =>
    obtain ⟨hst, hd, hrest⟩ := hbanks id
    have hv : (s.bank id).demod.valid = true := hc (boundCheck _ id) (by simp only [commandChecks]; simp)
    have ht := State.refreshChecks_table (s := s) (d := (s.bank id).demod) (c := s.bankRegs id) fun k hk => hc k (by
      simp only [commandChecks, State.demodChecks, List.mem_append]
      tauto)
    exact ⟨⟨hst, (State.runDemod_ok htables hd hv ht _ _).commit _, hrest⟩, hnotch id⟩
  case restore id =>
    obtain ⟨hst, hd, hrest⟩ := hbanks id
    have hv : (s.bank id).demod.valid = true := hc (boundCheck _ id) (by simp only [commandChecks]; simp)
    exact ⟨⟨hst, (s.runRestore_ok hd hv _).commit _, hrest⟩, hnotch id⟩
  case agcinit f id =>
    obtain ⟨hst, hd, hnb, -, hno⟩ := hbanks id
    have hlen := hc ⟨s.agcInitLen.any fun l => 1 ≤ l ∧ l ≤ (s.cfg.maxBlock : Int), .param, 0⟩ (by simp [commandChecks])
    obtain ⟨l, hl, hle⟩ := (Option.any_eq_true ..).mp hlen
    have hpos : 1 ≤ (s.agcInitLen.getD 0).toNat := by
      rw [hl, Option.getD_some]
      simp only [Bool.decide_and, Bool.and_eq_true, decide_eq_true_eq] at hle
      omega
    exact ⟨⟨hst, hd, hnb, AGCState.ok_fresh _ _ _ hpos, hno⟩, hnotch id⟩
  case agcrun x id =>
    obtain ⟨hst, hd, hnb, hagc, hno⟩ := hbanks id
    exact ⟨⟨hst, hd, hnb, (s.runAgc_ok x _ hagc).commit _, hno⟩, hnotch id⟩
  case nbinit id =>
    obtain ⟨hst, hd, -, hagc, hno⟩ := hbanks id
    have hlen := hc ⟨s.nbInitLen.any fun l => 2 ≤ l ∧ l ≤ (s.cfg.maxBlock : Int), .param, 0⟩ (by simp [commandChecks])
    obtain ⟨l, hl, hle⟩ := (Option.any_eq_true ..).mp hlen
    have hpos : 2 ≤ (s.nbInitLen.getD 0).toNat := by
      rw [hl, Option.getD_some]
      simp only [Bool.decide_and, Bool.and_eq_true, decide_eq_true_eq] at hle
      omega
    exact ⟨⟨hst, hd, NBState.ok_fresh hpos, hagc, hno⟩, hnotch id⟩
  case nbrun id =>
    obtain ⟨hst, hd, hnb, hagc, hno⟩ := hbanks id
    dsimp only [commandEffect]
    split
    · exact trivial
    · exact ⟨⟨hst, hd, (s.runNb_ok _ hnb).commit _, hagc, hno⟩, hnotch id⟩
  case aninit id =>
    obtain ⟨hst, hd, hnb, hagc, -⟩ := hbanks id
    have h0 : id = 0 := of_decide_eq_true (hc (primaryCheck id) (by simp [commandChecks]))
    exact ⟨⟨hst, hd, hnb, hagc, NotchState.ok_fresh hsound _⟩, fun (h1 : 1 ≤ id) => by omega⟩
  case anrun id =>
    obtain ⟨hst, hd, hnb, hagc, hno⟩ := hbanks id
    have h0 : id = 0 := of_decide_eq_true (hc (primaryCheck id) (by simp [commandChecks]))
    exact ⟨⟨hst, hd, hnb, hagc, (State.runNotch_ok hsound _ hno).commit _⟩, fun (h1 : 1 ≤ id) => by omega⟩
  case piperx id =>
    obtain ⟨hbank, hfreed, -, -, hn⟩ := State.pipe_ok hsound hs (id := id) hc
    dsimp only [commandEffect, Effect.buffer, State.keptRate]
    cases (s.pipe id).bad
    · exact ⟨hbank, fun h1 => (hn h1).1⟩
    · exact ⟨hfreed, fun h1 => (hn h1).2⟩
  case bkfree id => exact ⟨Bank.ok_default _, fun _ => rfl⟩
  case frac id | modinit id | mod id => exact ⟨hbanks id, hnotch id⟩

/-- A command keeps the invariant (R29 to R36, R60 to R68). -/
theorem exec_keepsComponents {i : Instr} {t : State} (h : exec i s = .next t) : t.ComponentsOk := by
  cases exec_endsAs h with
  | refused | starved => exact hs
  | completed hc =>
    obtain ⟨hfi, hhb, hch, hnotch⟩ := hs.placed (commandEffect_putOk hs hconf hc)
    have hcfg := s.done_cfg i
    have hct : (s.done i).ct = s.ct := State.affected_ct ..
    refine (State.componentsOk_iff _).mpr ⟨?_, ?_, hhb, ?_, hnotch⟩
    · rw [State.TablesOk, hct, hcfg]
      exact hs.1
    · rw [hcfg]
      exact hfi
    · rw [hcfg]
      exact hch

end

/-! ### Host actions -/

/-- A state as after reset meets the invariant, whatever its sizes (R33, R35, R78). -/
theorem State.componentsOk_resetOf (cfg : Params) (ntab nfilt nhb nbanks : Nat) : (State.resetOf cfg ntab nfilt nhb nbanks).ComponentsOk := by
  refine ⟨fun o ho t ht => ?_, fun f hf => ?_, fun i hi => ?_, fun c hc => ?_, fun b _ => ?_⟩
  · rw [List.eq_of_mem_replicate ho] at ht
    cases ht
  · rw [List.eq_of_mem_replicate hf]
    exact FilterInst.ok_of_unbound rfl
  · rw [List.eq_of_mem_replicate hi]
    exact HBInst.ok_default
  · rw [List.eq_of_mem_replicate hc]
    exact Bank.ok_default cfg
  · rcases getD_mem_or (State.resetOf cfg ntab nfilt nhb nbanks).chans b {} with hm | he
    · rw [State.bank, State.chan, List.eq_of_mem_replicate hm]
    · rw [State.bank, State.chan, he]

/-- A host action keeps the invariant (R78, R92, R99). -/
theorem State.act_keepsComponents {s t : State} {a : HostAction} (hs : s.ComponentsOk) (h : s.act a = .next t) : t.ComponentsOk := by
  cases a with
  | writeA i w =>
    cases h
    rw [State.writeA_eq]
    exact hs
  | issueCmd w =>
    obtain ⟨hconf, ⟨i, -, hi⟩ | ⟨-, rfl⟩⟩ := State.issue_cases h
    · exact exec_keepsComponents hs hconf hi
    · exact hs
  | readR i => cases h; exact hs
  | readCR n => cases h; exact hs
  | writeCR n w =>
    cases h
    obtain ⟨htables, hfi, hhb, hch, hnotch⟩ := s.componentsOk_iff.mp hs
    have hbank := s.writeCR_bank n w
    rw [State.componentsOk_iff]
    rw [State.writeCR_eq] at hbank ⊢
    exact ⟨htables, hfi, hhb, fun b => hbank b ▸ hch b, fun b hb => hbank b ▸ hnotch b hb⟩
  | loadTable t vals =>
    cases h
    unfold State.loadTable
    split
    next hargs =>
      refine ⟨fun o ho tb htb => ?_, hs.2⟩
      rcases List.mem_or_eq_of_mem_set ho with ho | rfl
      · exact hs.1 o ho tb htb
      · cases htb
        exact hargs.2
    · exact hs
  | writeSM a vals =>
    simp only [State.act, State.writeSM] at h
    split at h <;> cases h
    exact hs
  | readSM a n =>
    simp only [State.act, State.readSM] at h
    split at h <;> cases h
    exact hs
  | reset => cases h; exact State.componentsOk_resetOf ..

/-- Settles O12: what each command puts is well formed when what it found was, and so is what the host writes. -/
theorem stepKeepsComponents : Obligations.StepKeepsComponents := by
  intro s t hs h
  obtain rfl | ⟨a, rest, -, hact⟩ := step_cases h
  · exact hs
  · exact State.act_keepsComponents (s := { s with host := rest }) hs hact

/-- Settles O10: memory is empty and nothing is in use. -/
theorem resetMeetsInvariants : Obligations.ResetMeetsInvariants :=
  ⟨⟨rfl, nofun⟩, State.componentsOk_resetOf Tc.params 32 16 16 2⟩

end Sys2Proof.Machine
end

section
/-! PROOFS. Steps of the host (spec/10_state.md R26, R78, R97; spec/20_memory.md R92, R99): a word is the command it decodes to, a table
changes by `LoadTable` and `Reset` only, sample memory by the cells named, and what the reset state holds. -/

namespace Sys2Proof.Machine

/-! ### Commands -/

/-- A step does the oldest host action still to come (R97). -/
theorem step_of_host {s : State} {a : HostAction} {rest : List HostAction} (h : s.host = a :: rest) :
    step s = State.act { s with host := rest } a := by
  rw [step, h]

theorem State.issue_of_configOk {s : State} (h : s.configOk = true) (w : Word32) :
    s.issue w = match decode w with
      | some i => exec i s
      | none => .next (s.raise .badOp (w.setWidth 64)) := if_pos h

/-- Settles O4: the step hands the word to the command it decodes to, and an illegal one to the record of `E_BADOP`. -/
theorem stepRunsTheCommand : Obligations.StepRunsTheCommand := by
  intro s w rest hhost hconf
  have hstep := (step_of_host hhost).trans (State.issue_of_configOk (s := { s with host := rest }) hconf w)
  refine ⟨fun i hi => ?_, fun hnone => ⟨State.raise { s with host := rest } .badOp (w.setWidth 64), ?_, rfl⟩⟩
  · rw [hstep, hi]
  · rw [hstep, hnone]

/-! ### Tables (R92) -/

/-- No command changes a table (R92). -/
theorem exec_ct {i : Instr} {s t : State} (h : exec i s = .next t) : t.ct = s.ct := by
  obtain ⟨-, -, -, -, hct, -⟩ := commandsKeepTheHostsState i s t h
  exact hct

/-- No host action but `LoadTable` and `Reset` changes a table (R78, R92). -/
theorem State.act_ct {s u : State} {a : HostAction} (hload : ∀ t vals, a ≠ .loadTable t vals) (hreset : a ≠ .reset)
    (h : s.act a = .next u) : u.ct = s.ct := by
  cases a with
  | writeA i w => cases h; rw [State.writeA_eq]
  | issueCmd w =>
    obtain ⟨-, ⟨i, -, hi⟩ | ⟨-, rfl⟩⟩ := State.issue_cases h
    · exact exec_ct hi
    · rfl
  | readR i => cases h; rfl
  | readCR n => cases h; rfl
  | writeCR n w => cases h; rw [State.writeCR_eq]
  | loadTable t vals => exact absurd rfl (hload t vals)
  | writeSM a vals =>
    simp only [State.act, State.writeSM] at h
    split at h <;> cases h
    rfl
  | readSM a n =>
    simp only [State.act, State.readSM] at h
    split at h <;> cases h
    rfl
  | reset => exact absurd rfl hreset

/-- Settles O6: `LoadTable` sets a slot when its arguments are in range, and no other action but `Reset` touches the tables. -/
theorem loadTableSetsOneSlot : Obligations.LoadTableSetsOneSlot := by
  refine ⟨fun s u a rest hhost hload hreset hstep => ?_, fun s rest t vals hhost => ?_⟩
  · exact State.act_ct (s := { s with host := rest }) hload hreset ((step_of_host hhost).symm.trans hstep)
  · refine ⟨_, step_of_host hhost, ?_⟩
    unfold State.loadTable
    split
    next hargs =>
      have hlt : t < s.ct.length := hargs.1
      refine ⟨rfl, List.length_set .., fun k hk => ?_, fun _ => ?_, fun hn => absurd hargs hn⟩
      · simp [State.table, List.getElem?_set_ne (Ne.symm hk)]
      · simp [State.table, hlt]
    next hargs => exact ⟨rfl, rfl, fun _ _ => rfl, fun h => absurd h hargs, fun _ => rfl⟩

/-! ### Sample memory (R99) -/

/-- Settles O7: a block write reads back in its cells and nowhere else, and a block read hands out what the cells read. -/
theorem memoryActions : Obligations.MemoryActions := by
  intro s rest a hwf
  refine ⟨fun vals hhost hfit => ?_, fun n hhost hfit => ?_⟩
  · have hact : step s = .next { s with host := rest, sm := s.sm.writeBlock a vals } :=
      (step_of_host hhost).trans (if_pos (decide_eq_true hfit))
    refine ⟨_, hact, rfl, fun x hx => ?_, fun k hk => ?_⟩
    · exact (Mem.read_writeBlock a x vals s.sm hwf).trans (if_neg hx)
    · refine (Mem.read_writeBlock a (a + k) vals s.sm hwf).trans ((if_pos (by omega)).trans ?_)
      rw [Nat.add_sub_cancel_left]
  · exact (step_of_host hhost).trans (if_pos (decide_eq_true hfit))

/-! ### Reset (R78) -/

theorem State.reset_table (t : Nat) : State.reset.table t = none := by
  have h : State.reset.ct = List.replicate 32 none := rfl
  rw [State.table, h, List.getD_eq_getElem?_getD, List.getElem?_replicate]
  split <;> rfl

theorem State.reset_filter (i : Nat) : State.reset.filter i = {} := by
  have h : State.reset.fi = List.replicate 16 {} := rfl
  rw [State.filter, h, List.getD_eq_getElem?_getD, List.getElem?_replicate]
  split <;> rfl

theorem State.reset_half (i : Nat) : State.reset.half i = {} := by
  have h : State.reset.hb = List.replicate 16 {} := rfl
  rw [State.half, h, List.getD_eq_getElem?_getD, List.getElem?_replicate]
  split <;> rfl

theorem State.reset_chan (b : Nat) : State.reset.chan b = {} := by
  have h : State.reset.chans = List.replicate 2 {} := rfl
  rw [State.chan, h, List.getD_eq_getElem?_getD, List.getElem?_replicate]
  split <;> rfl

/-- Every global register but `NRX` and the notch bins reads 0 after reset (R41, R43, R56). -/
theorem CtrlRegs.read_default {n : Nat} (h2 : n ≠ 0x002) (h4 : n ≠ 0x304) (h5 : n ≠ 0x305) : ({} : CtrlRegs).read n = 0 := by
  unfold CtrlRegs.read
  split
  case h_3 => exact absurd rfl h2
  case h_21 => exact absurd rfl h4
  case h_22 => exact absurd rfl h5
  all_goals rfl

theorem State.reset_readCR {n : Nat} (h2 : n ≠ 0x002) (h4 : n ≠ 0x304) (h5 : n ≠ 0x305) : State.reset.readCR n = 0 := by
  unfold State.readCR
  split
  · rw [State.bankRegs, State.reset_chan]
    unfold BankRegs.read
    split <;> rfl
  · rw [State.reset_chan]
  · exact CtrlRegs.read_default h2 h4 h5

/-- Settles O9: the reset state, part by part, and the action `Reset` of a state of any size. -/
theorem resetValues : Obligations.ResetValues := by
  refine ⟨rfl, rfl, rfl, rfl, rfl, rfl, fun n _ => State.reset_readCR, fun t _ => State.reset_table t, fun i _ => State.reset_filter i,
    fun i _ => State.reset_half i, fun b _ => ?_, rfl, fun s rest hhost => ?_⟩
  · rw [State.bank, State.reset_chan, State.reset_filter]
    exact ⟨rfl, rfl, rfl, rfl, rfl, rfl, rfl, rfl, rfl⟩
  · refine ⟨_, step_of_host hhost, ?_⟩
    rw [State.reset_filter, State.reset_half, State.reset_chan]
    exact ⟨rfl, rfl, rfl, rfl, rfl, rfl, rfl⟩

end Sys2Proof.Machine
end

section
/-! PROOFS. A command depends on sample memory through its block only (spec/20_memory.md R88). -/

namespace Sys2Proof.Machine

section
variable {s : State} {m : Mem} (h : ∀ k < s.opN, m.read (s.opA + k) = s.sm.read (s.opA + k))
include h

theorem State.input_sm (v : Variant) : State.input { s with sm := m } v = s.input v := by
  have hblock : m.readBlock s.opA s.opN = s.sm.readBlock s.opA s.opN := Mem.readBlock_congr _ _ _ _ h
  unfold State.input
  dsimp only
  rw [show State.opA { s with sm := m } = s.opA from rfl, show State.opN { s with sm := m } = s.opN from rfl, hblock]

theorem State.micBlock_sm : State.micBlock { s with sm := m } = s.micBlock := by
  rw [← State.input_real_re, State.input_sm h, State.input_real_re]

theorem State.modBad_sm : State.modBad { s with sm := m } = s.modBad := by
  rw [State.modBad, State.input_sm h]
  rfl

theorem State.modBaseband_sm (id : Nat) : State.modBaseband { s with sm := m } id = s.modBaseband id := by
  rw [State.modBaseband, State.micBlock_sm h]
  rfl

theorem State.pipeFront_sm (id hz : Nat) : State.pipeFront { s with sm := m } id hz = s.pipeFront id hz := by
  have hstart : State.pipeStart { s with sm := m } id = s.pipeStart id :=
    congrArg (fun x => { s.pipeStart id with x := x }) (Mem.readBlock_congr _ _ _ _ h)
  exact congrArg (fun p => s.pipeSmeter id (s.pipeFrac (s.pipeChain (s.pipeBlank (s.pipeTune id hz p))))) hstart

theorem State.pipe_sm (id : Nat) : State.pipe { s with sm := m } id = s.pipe id := by
  have haudio (r : ModeRec) (p : Pipe) : State.pipeAudio { s with sm := m } id r p = s.pipeAudio id r p := rfl
  have hback (r : ModeRec) (x : List Cplx) (p : Pipe) : State.pipeBack { s with sm := m } id r x p = s.pipeBack id r x p := rfl
  rw [State.pipe, State.pipeFront_sm h, haudio, hback]
  rfl

theorem commandNeeds_sm (i : Instr) : commandNeeds i { s with sm := m } = commandNeeds i s := by
  have hgrow (st : List StageInst) (x : List Cplx) :
      State.stagesGrow { s with sm := m } placeRestore st x = s.stagesGrow placeRestore st x :=
    State.stagesGrow_congr (s := s) (u := { s with sm := m }) rfl placeRestore st x
  cases i
  case restore id =>
    dsimp only [commandNeeds]
    rw [State.input_sm h, hgrow]
    rfl
  case piperx id =>
    dsimp only [commandNeeds, State.pipeNeeds]
    rw [hgrow, State.pipeFront_sm h]
    rfl
  all_goals rfl

/-- What a command does depends on memory through its block only. -/
theorem commandEffect_sm (i : Instr) : commandEffect i { s with sm := m } = commandEffect i s := by
  cases i
  case fapply => simp only [commandEffect, State.fapplyRun, State.input_sm h]; rfl
  case fdecim => simp only [commandEffect, State.fdecimRun, State.input_sm h]; rfl
  case finterp => simp only [commandEffect, State.finterpRun, State.input_sm h]; rfl
  case fresamp => simp only [commandEffect, State.fresampRun, State.input_sm h]; rfl
  case hbdec2 => simp only [commandEffect, State.hbdec2Run, State.input_sm h]; rfl
  case hbint2 => simp only [commandEffect, State.hbint2Run, State.input_sm h]; rfl
  case chrun => simp only [commandEffect, State.chrunBad, State.chrunRun, State.input_sm h]; rfl
  case frac => simp only [commandEffect, State.fracRun, State.input_sm h]; rfl
  case demod => simp only [commandEffect, State.demodRun, State.input_sm h]; rfl
  case restore => simp only [commandEffect, State.restoreRun, State.input_sm h]; rfl
  case mod => simp only [commandEffect, State.modTx, State.modOut, State.modBad_sm h, State.modBaseband_sm h]; rfl
  case agcrun => simp only [commandEffect, State.agcRun, State.input_sm h]; rfl
  case nbrun => simp only [commandEffect, State.nbRun, State.input_sm h]; rfl
  case anrun => simp only [commandEffect, State.notchRun, State.input_sm h]; rfl
  case piperx => simp only [commandEffect, State.pipe_sm h]; rfl
  all_goals rfl

end

theorem commandChecks_sm (i : Instr) (s : State) (m : Mem) : commandChecks i { s with sm := m } = commandChecks i s := by
  cases i <;> rfl

/-- `R0` counts the samples a command stores; NBRUN at level 0 leaves its block where it is (R87, R336). -/
theorem commandEffect_r0 (i : Instr) (s : State) :
    (commandEffect i s).r0 = BitVec.ofNat 64 (commandEffect i s).out.length ∨
      (commandEffect i s).out = [] ∧ (commandEffect i s).base = s.opA ∧ (commandEffect i s).r0 = s.a1 := by
  cases i
  case nbrun =>
    dsimp only [commandEffect]
    split
    · exact .inr ⟨rfl, rfl, rfl⟩
    · exact .inl rfl
  all_goals exact .inl rfl

theorem storedAt_snd_le (i : Instr) (s t : State) : (storedAt i s t).2 ≤ t.r0.toNat := by
  unfold storedAt
  split
  · exact Nat.le_refl _
  · split
    · exact Nat.le_refl _
    · exact Nat.zero_le _

theorem State.affected_with_sm (s : State) (m : Mem) (id : Nat) (e : Effect) :
    State.affected { s with sm := m } id e = { s.affected id e with sm := m.writeBlock e.base e.out } := by
  obtain ⟨put, _, _, _, _, _, _⟩ := e
  cases put <;> rfl

/-- Settles O17: checks, oracle and effect are those of a state with the same block. -/
theorem commandsReadOnlyTheirBlock : Obligations.CommandsReadOnlyTheirBlock := by
  intro i s t m hm hexec
  have hzero (u : State) (hr : t.r0 = 0) (k : Nat) (hk : k < (storedAt i s t).2) :
      u.sm.read ((storedAt i s t).1 + k) = t.sm.read ((storedAt i s t).1 + k) := by
    have hle := storedAt_snd_le i s t
    rw [hr] at hle
    exact absurd (hk.trans_le hle) (Nat.not_lt_zero k)
  cases exec_endsAs hexec with
  | refused e w h =>
    exact ⟨_, exec_of_refused ((congrArg firstFail (commandChecks_sm i s m)).trans h), rfl, fun _ _ _ => hzero _ rfl⟩
  | starved h hneeds hno =>
    refine ⟨_, exec_of_starved (s := { s with sm := m }) (fun c hc => ?_) ((commandNeeds_sm hm i).trans hneeds) hno, rfl, fun _ _ _ => hzero _ rfl⟩
    exact h c (commandChecks_sm i s m ▸ hc)
  | completed h hyes =>
    have hneeds := commandNeeds_sm hm i
    have hdone : State.done { s with sm := m } i = { s.done i with sm := m.writeBlock (commandEffect i s).base (commandEffect i s).out } := by
      rw [State.done, commandEffect_sm hm, hneeds, State.affected_with_sm]
      rfl
    refine ⟨_, exec_of_checks (s := { s with sm := m }) (fun c hc => h c (commandChecks_sm i s m ▸ hc)) (fun hn => hyes (hneeds.symm.trans hn)), by rw [hdone], ?_⟩
    intro hwf hwf' hmax k hk
    rw [hdone]
    cases he : commandExtent i s with
    | none =>
      have hr : (s.done i).r0 = 0 := (commandEffect_none he).2
      exact hzero _ hr k hk
    | some p =>
      obtain ⟨hbase, hlen, hcount⟩ := commandEffect_stores he h hmax
      rw [storedAt_of_extent he] at hk ⊢
      rw [State.done_r0] at hk
      dsimp only at hk ⊢
      rw [State.done_sm, Mem.read_writeBlock _ _ _ _ hwf, Mem.read_writeBlock _ _ _ _ hwf', hbase]
      by_cases hout : k < (commandEffect i s).out.length
      · rw [if_pos (by omega), if_pos (by omega)]
      · rw [if_neg (by omega), if_neg (by omega)]
        rcases commandEffect_r0 i s with hr | ⟨-, hb, hr⟩
        · rw [hr, BitVec.toNat_ofNat] at hk
          exact absurd (hk.trans_le (Nat.mod_le _ _)) hout
        · rw [hr] at hk
          rw [← hbase, hb]
          exact hm k hk

end Sys2Proof.Machine
end

section
/-! PROOFS. What a command of each engine may change (spec/10_state.md R21 to R23, R29, R56, R86): registers, cells, and of what its `ID`
names the parts its run writes. -/

namespace Sys2Proof.Machine

/-! ### What a command's `ID` names, after it -/

section
variable {s : State} {id : Nat} {p : Put}

/-- What held of a filter holds after a put, when it holds of the filter put (R29). -/
theorem State.placed_filter_of {P : FilterInst → Prop} (hsame : P (s.filter id)) (hput : ∀ f, p = .filter f → P f) :
    P ((s.placed id p).filter id) := by
  cases p with
  | filter f =>
    by_cases hid : id < s.nfilt
    · exact (State.filter_setFilter_self s id f hid).symm ▸ hput f rfl
    · simpa [State.placed, State.setFilter, State.filter, List.set_eq_of_length_le (Nat.le_of_not_lt hid)] using hsame
  | _ => exact hsame

theorem State.placed_half_of {P : HBInst → Prop} (hsame : P (s.half id)) (hput : ∀ i, p = .half i → P i) :
    P ((s.placed id p).half id) := by
  cases p with
  | half i =>
    by_cases hid : id < s.nhb
    · exact (State.half_setHalf_self s id i hid).symm ▸ hput i rfl
    · simpa [State.placed, State.setHalf, State.half, List.set_eq_of_length_le (Nat.le_of_not_lt hid)] using hsame
  | _ => exact hsame

theorem State.placed_chan_of {P : Channel → Prop} (hsame : P (s.chan id))
    (hput : ∀ k r, p = .bank k r → P { s.chan id with bank := k, achRate := r }) : P ((s.placed id p).chan id) := by
  cases p with
  | bank k r =>
    by_cases hid : id < s.nbanks
    · exact (State.chan_placed_bank k r hid).symm ▸ hput k r rfl
    · simpa [State.placed, State.chan, List.set_eq_of_length_le (Nat.le_of_not_lt hid)] using hsame
  | _ => exact hsame

end

section
variable {i : Instr} {s t : State} (h : exec i s = .next t)
include h

/-- A command leaves its filter as it was, or as its effect puts it. -/
theorem exec_filter {P : FilterInst → Prop} (hsame : P (s.filter i.id))
    (hput : (∀ c ∈ commandChecks i s, c.ok = true) → ∀ f, (commandEffect i s).put = .filter f → P f) : P (t.filter i.id) := by
  cases exec_endsAs h with
  | refused | starved => exact hsame
  | completed hc => exact State.placed_filter_of hsame (hput hc)

/-- A command leaves its half-band as it was, or as its effect puts it. -/
theorem exec_half {P : HBInst → Prop} (hsame : P (s.half i.id))
    (hput : (∀ c ∈ commandChecks i s, c.ok = true) → ∀ f, (commandEffect i s).put = .half f → P f) : P (t.half i.id) := by
  cases exec_endsAs h with
  | refused | starved => exact hsame
  | completed hc => exact State.placed_half_of hsame (hput hc)

/-- A command leaves its bank as it was, or as its effect puts it. -/
theorem exec_chan {P : Channel → Prop} (hsame : P (s.chan i.id))
    (hput : (∀ c ∈ commandChecks i s, c.ok = true) → ∀ k r, (commandEffect i s).put = .bank k r →
      P { s.chan i.id with bank := k, achRate := r }) : P (t.chan i.id) := by
  cases exec_endsAs h with
  | refused | starved => exact hsame
  | completed hc => exact State.placed_chan_of hsame (hput hc)

/-- A command whose effect leaves the control registers changes `STATUS` and the counters only (R41, R443, R448). -/
theorem exec_counters (hcr : (commandEffect i s).cr = s.cr) : s.cr.KeepsAllButCounters t.cr := by
  cases exec_endsAs h with
  | refused | starved => rfl
  | completed =>
    rw [State.done]
    dsimp only
    rw [State.affected_cr, hcr]
    rfl

/-- A command leaves the control registers as they were or as its effect has them, but for `STATUS`, `ERR_CNT` and `XRUN_CNT`. -/
theorem exec_cr {P : CtrlRegs → Prop} (hsame : P s.cr)
    (hput : (∀ c ∈ commandChecks i s, c.ok = true) → P (commandEffect i s).cr)
    (hstatus : ∀ (c : CtrlRegs) (st : Status) (e x : Word32), P c → P { c with status := st, errCnt := e, xrunCnt := x }) : P t.cr := by
  cases exec_endsAs h with
  | refused | starved => exact hstatus _ _ _ s.cr.xrunCnt hsame
  | completed hc => exact hstatus _ _ (commandEffect i s).cr.errCnt _ (hput hc)

/-- No command changes anything but its results, `STATUS` and telemetry, memory, instances, banks and the oracle's answers. -/
theorem exec_rest : t = { s with
    r0 := t.r0, r1 := t.r1, cr := t.cr, sm := t.sm, fi := t.fi, hb := t.hb, chans := t.chans, allocs := t.allocs, draws := t.draws } := by
  cases exec_endsAs h with
  | refused | starved => rfl
  | completed =>
    have haff (e : Effect) : s.affected i.id e = { s with
        r0 := (s.affected i.id e).r0, r1 := (s.affected i.id e).r1, cr := (s.affected i.id e).cr, sm := (s.affected i.id e).sm,
        fi := (s.affected i.id e).fi, hb := (s.affected i.id e).hb, chans := (s.affected i.id e).chans,
        draws := (s.affected i.id e).draws } := by
      obtain ⟨put⟩ := e
      cases put <;> rfl
    rw [State.done, haff]

/-- No command changes how many instances and banks there are. -/
theorem exec_lengths : t.fi.length = s.fi.length ∧ t.hb.length = s.hb.length ∧ t.chans.length = s.chans.length := by
  cases exec_endsAs h with
  | refused | starved => exact ⟨rfl, rfl, rfl⟩
  | completed => exact State.placed_lengths

/-- A command that does not consult the oracle leaves its answers (R446). -/
theorem exec_allocs (hneeds : commandNeeds i s = false) : t.allocs = s.allocs := by
  cases exec_endsAs h with
  | refused => rfl
  | starved _ hyes => exact absurd (hneeds.symm.trans hyes) (by decide)
  | completed =>
    rw [State.done, hneeds]
    rfl

variable (hwf : s.sm.wf = true) (hconf : s.configOk = true)
include hwf hconf

/-- What a command on a filter may change (R29, R86). -/
theorem exec_filterFrame (hkind : idKind i = .filter) (hcr : (commandEffect i s).cr = s.cr) :
    s.FilterFrame t i.id (storedAt i s t).1 (storedAt i s t).2 := by
  obtain ⟨-, hhb, hch, hother⟩ := commandsKeepOthersState i s t h
  have hrest := exec_rest h
  rw [hhb (by rw [hkind]; decide), hch (by rw [hkind]; decide)] at hrest
  exact ⟨hrest, exec_counters h hcr, (exec_stores hwf (State.maxBlock_lt_of_configOk hconf) h).1, (exec_lengths h).1,
    fun j hj => (hother j hj).1⟩

/-- What a command on a half-band may change (R29, R86). -/
theorem exec_halfFrame (hkind : idKind i = .half) (hcr : (commandEffect i s).cr = s.cr) (hneeds : commandNeeds i s = false) :
    s.HalfFrame t i.id (storedAt i s t).1 (storedAt i s t).2 := by
  obtain ⟨hfi, -, hch, hother⟩ := commandsKeepOthersState i s t h
  have hrest := exec_rest h
  rw [hfi (by rw [hkind]; decide), hch (by rw [hkind]; decide), exec_allocs h hneeds] at hrest
  exact ⟨hrest, exec_counters h hcr, (exec_stores hwf (State.maxBlock_lt_of_configOk hconf) h).1, (exec_lengths h).2.1,
    fun j hj => (hother j hj).2.1⟩

/-- What a command on a bank may change (R29, R86). -/
theorem exec_bankFrame (hkind : idKind i = .bank) : s.BankFrame t i.id (storedAt i s t).1 (storedAt i s t).2 := by
  obtain ⟨-, -, -, -, -, hcr, hregs⟩ := commandsKeepTheHostsState i s t h
  obtain ⟨hfi, hhb, -, hother⟩ := commandsKeepOthersState i s t h
  have hrest := exec_rest h
  rw [hfi (by rw [hkind]; decide), hhb (by rw [hkind]; decide)] at hrest
  exact ⟨hrest, hcr, (exec_stores hwf (State.maxBlock_lt_of_configOk hconf) h).1, (exec_lengths h).2.2,
    fun j hj => (hother j hj).2.2, hregs _⟩

end

/-! ### The Filter Engine and the half-bands -/

/-- What a filter loop leaves of a filter: its history, its cursor and its phase may differ (R160, R163). -/
theorem FilterInst.commit_of_sameShape {f : FilterInst} {r : FirLoop} (h : f.sameShape r.f) (ser : Nat) (pl : Place) (f0 : FilterInst)
    (x : List Cplx) (bad : Bool) :
    let u := (firRun ser pl f0 x r).commit bad
    u = { f with hist := u.hist, cur := u.cur, phase := u.phase } ∧ u.phase = r.f.phase := by
  have hr : r.f = { f with hist := r.f.hist, cur := r.f.cur, phase := r.f.phase } :=
    FilterInst.eq_of_sameShape (f := { f with phase := r.f.phase }) h rfl
  cases bad
  · exact ⟨hr, rfl⟩
  · refine ⟨?_, rfl⟩
    simp only [firRun, Run.commit, if_true, FilterInst.freed]
    rw [hr]

theorem FilterInst.grown_eq (f : FilterInst) (n : Nat) : f.grown n = { f with scap := (f.grown n).scap } := by
  unfold FilterInst.grown
  split <;> rfl

/-- The same for a filter whose scratch buffer may have grown (R175). -/
theorem FilterInst.commit_of_grown {f : FilterInst} {n : Nat} {r : FirLoop} (h : (f.grown n).sameShape r.f) (ser : Nat) (pl : Place)
    (f0 : FilterInst) (x : List Cplx) (bad : Bool) :
    let u := (firRun ser pl f0 x r).commit bad
    u = { f with hist := u.hist, cur := u.cur, phase := u.phase, scap := u.scap } ∧ u.phase = r.f.phase := by
  rw [FilterInst.grown_eq] at h
  obtain ⟨hu, hp⟩ := FilterInst.commit_of_sameShape h ser pl f0 x bad
  have hscap := congrArg FilterInst.scap hu
  dsimp only at hu hscap ⊢
  rw [hscap]
  exact ⟨hu, hp⟩

/-- Settles O26: the loops keep a filter's shape, and growth changes its scratch capacity only. -/
theorem filterCommandsFrame : Obligations.FilterCommandsFrame := by
  intro s t v id hwf hconf
  refine ⟨fun h => exec_filterFrame h hwf hconf rfl rfl, fun h => ⟨exec_filterFrame h hwf hconf rfl rfl, ?_⟩,
    fun h => ⟨exec_filterFrame h hwf hconf rfl rfl, ?_⟩, fun h => ⟨exec_filterFrame h hwf hconf rfl rfl, ?_⟩,
    fun h => ⟨exec_filterFrame h hwf hconf rfl rfl, ?_⟩, fun h => ⟨exec_filterFrame h hwf hconf rfl rfl, ?_⟩⟩
  · exact exec_filter (P := fun g => g = { s.filter id with tuned := g.tuned }) h rfl fun _ f hf => by cases hf; rfl
  · refine exec_filter (P := fun g => g = { s.filter id with hist := g.hist, cur := g.cur }) h rfl fun _ f hf => ?_
    cases hf
    obtain ⟨-, -, -, hshape, hphase⟩ := firApply_spec (s.coefs (s.filter id)) (s.filter id) (s.input (s.filter id).variant)
    obtain ⟨hu, hp⟩ := FilterInst.commit_of_sameShape hshape s.draws placeFilter (s.filter id) (s.input (s.filter id).variant)
      (s.fapplyRun id).bad
    exact hu.trans (by rw [hp, hphase]; rfl)
  · refine exec_filter (P := fun g => g = { s.filter id with hist := g.hist, cur := g.cur, phase := g.phase }) h rfl fun _ f hf => ?_
    cases hf
    obtain ⟨-, -, -, hshape⟩ := firDecim_spec (s.coefs (s.filter id)) s.op2 (s.filter id) (s.input (s.filter id).variant)
    exact (FilterInst.commit_of_sameShape hshape ..).1
  · refine exec_filter (P := fun g => g = { s.filter id with hist := g.hist, cur := g.cur, scap := g.scap }) h rfl fun _ f hf => ?_
    cases hf
    obtain ⟨-, -, hshape, hphase⟩ := firInterp_spec (s.coefs (s.filter id)) s.op2 s.cfg.maxBlock ((s.filter id).grown s.opN)
      (s.input (s.filter id).variant)
    obtain ⟨hu, hp⟩ := FilterInst.commit_of_grown hshape s.draws placeFilter ((s.filter id).grown s.opN)
      (s.input (s.filter id).variant) (s.finterpRun id).bad
    exact hu.trans (by rw [hp, hphase, FilterInst.grown_phase]; rfl)
  · refine exec_filter (P := fun g => g = { s.filter id with hist := g.hist, cur := g.cur, phase := g.phase, scap := g.scap }) h rfl
      fun _ f hf => ?_
    cases hf
    obtain ⟨-, hshape⟩ := firResamp_spec (s.coefs (s.filter id)) s.op2 s.op3 s.cfg.maxBlock ((s.filter id).grown s.opN)
      (s.input (s.filter id).variant)
    exact (FilterInst.commit_of_grown hshape ..).1

/-- What HBDEC2's loop leaves of a half-band: its window and its toggle may differ (R206). -/
theorem hbDec2_frame (h : List Real64) (i : HBInst) (x : List Cplx) :
    (hbDec2 h i x).i = { i with win := (hbDec2 h i x).i.win, toggle := (hbDec2 h i x).i.toggle } := by
  induction x generalizing i with
  | nil => rfl
  | cons z x ih =>
    rw [hbDec2_cons]
    exact ih _

/-- What HBINT2's loop leaves of a half-band: its window may differ (R208). -/
theorem hbInt2_frame (h : List Real64) (room : Nat) (i : HBInst) (x : List Cplx) :
    (hbInt2 h room i x).i = { i with win := (hbInt2 h room i x).i.win } := by
  induction x generalizing i room with
  | nil => rfl
  | cons z x ih =>
    rw [hbInt2]
    split
    · rfl
    · exact ih _ _

/-- What a half-band run commits differs in window and toggle only when its loop does; free values take the window's place (R11, R205). -/
theorem HBInst.commit_frame {i : HBInst} {r : HbLoop} (h : r.i = { i with win := r.i.win, toggle := r.i.toggle }) (ser : Nat)
    (pl : Place) (x : List Cplx) (bad : Bool) :
    let u := (hbRun ser pl x r).commit bad
    u = { i with win := u.win, toggle := u.toggle } := by
  cases bad
  · exact h
  · dsimp only [hbRun, Run.commit_true, HBInst.freed]
    split
    · exact h
    · rw [h]

/-- Settles O34: the loops write a window and a toggle. -/
theorem halfBandCommandsFrame : Obligations.HalfBandCommandsFrame := by
  intro s t v id hwf hconf
  refine ⟨fun h => exec_halfFrame h hwf hconf rfl rfl rfl, fun h => ⟨exec_halfFrame h hwf hconf rfl rfl rfl, ?_⟩,
    fun h => ⟨exec_halfFrame h hwf hconf rfl rfl rfl, ?_⟩⟩
  · refine exec_half (P := fun g => g = { s.half id with win := g.win, toggle := g.toggle }) h rfl fun _ f hf => ?_
    cases hf
    exact HBInst.commit_frame (hbDec2_frame ..) ..
  · refine exec_half (P := fun g => g = { s.half id with win := g.win }) h rfl fun _ f hf => ?_
    cases hf
    have hloop := hbInt2_frame s.cfg.hb45 s.cfg.maxBlock (s.half id) (s.input (s.half id).variant)
    have htoggle := congrArg HBInst.toggle hloop
    refine (HBInst.commit_frame (i := s.half id) (hloop.trans (by rw [htoggle])) ..).trans ?_
    rw [hbRun_commit_toggle, htoggle]
    rfl

end Sys2Proof.Machine
end

section
/-! PROOFS. What a command on a bank may change of its components (spec/10_state.md R23, R29, R56, R60 to R68), PIPERX with its stages
included (spec/47_orchestrator.md R401), and what changes whether a component is in use. -/

namespace Sys2Proof.Machine

/-! ### What the runs of a bank's components keep -/

/-- A run of the AGC keeps whether it is in use (R303). -/
theorem State.runAgc_valid (s : State) (g : AGCState) (cx : Bool) (x : List Cplx) :
    (s.runAgc g cx x).Keeps fun u => u.valid = g.valid := by
  have hloop (mo rg : Real64) (g : AGCState) : (agcLoop s.cfg cx mo rg g x).g.valid = g.valid := by
    induction x generalizing g with
    | nil => rfl
    | cons z x ih => exact (ih _).trans (agcStep_shape s.cfg cx mo rg g z).1
  exact ⟨hloop _ _ { g with alpha := _ }, hloop _ _ { g with alpha := _ }⟩

/-- A run of the blanker keeps whether it is in use (R333). -/
theorem State.runNb_valid (s : State) (b : NBState) (x : List Cplx) : (s.runNb b x).Keeps fun u => u.valid = b.valid := by
  have hst : (s.runNb b x).st.valid = b.valid := by
    change (nbLoop ..).b.valid = _
    rw [nbLoop_b]
    induction x generalizing b with
    | nil => rfl
    | cons z x ih =>
      refine (ih _).trans ?_
      rw [NBState.sampled_eq]
  exact ⟨hst, hst⟩

/-- A run of the notch keeps whether it is in use, and its rate (R363). -/
theorem State.runNotch_latched (s : State) (t : NotchState) (x : List Cplx) :
    (s.runNotch t x).Keeps fun u => u.valid = t.valid ∧ u.fs = t.fs := by
  have hloop (ks : Option Int) (room : Nat) (t : NotchState) :
      (notchLoop s.cfg ks room t x).t.valid = t.valid ∧ (notchLoop s.cfg ks room t x).t.fs = t.fs := by
    induction x generalizing room t with
    | nil => exact ⟨rfl, rfl⟩
    | cons z x ih =>
      have hhop : ((t.collect s.cfg z.re).hop s.cfg ks).1.valid = t.valid ∧ ((t.collect s.cfg z.re).hop s.cfg ks).1.fs = t.fs := by
        rw [NotchState.hop_eq]
        exact ⟨rfl, rfl⟩
      rw [notchLoop]
      dsimp only
      split
      · exact ⟨rfl, rfl⟩
      · split
        · exact ⟨(ih _ _).1.trans hhop.1, (ih _ _).2.trans hhop.2⟩
        · exact ih room (t.collect s.cfg z.re)
  exact ⟨hloop _ _ t, hloop _ _ t⟩

/-- What DMINIT latched and DEMOD does not write (R251, R254). -/
def DemodState.SameLatched (d u : DemodState) : Prop :=
  u.valid = d.valid ∧ u.mode = d.mode ∧ u.inRate = d.inRate ∧ u.rxfLower = d.rxfLower

theorem State.runDemod_latched (s : State) (c : BankRegs) (d : DemodState) (cap : Nat) (x : List Cplx) :
    (s.runDemod c d cap x).Keeps fun u => d.SameLatched u ∧ u.int = d.int := by
  have hst : d.SameLatched (s.runDemod c d cap x).st ∧ (s.runDemod c d cap x).st.int = d.int := by
    rw [State.runDemod_frame, State.refreshed_frame]
    exact ⟨⟨rfl, rfl, rfl, rfl⟩, rfl⟩
  exact ⟨hst, hst⟩

/-! ### The commands on one component -/

/-- The control registers a command that completes leaves (R41, R448). -/
theorem State.done_cr (s : State) (i : Instr) : (s.done i).cr =
    { (commandEffect i s).cr with
      status := .ofTrunc (decide ((commandEffect i s).truncs ≠ 0))
      xrunCnt := (commandEffect i s).cr.xrunCnt + BitVec.ofNat 32 (commandEffect i s).truncs } :=
  rfl

/-- A command that keeps its bank's achieved rate leaves of the bank what its effect's does. -/
theorem exec_bank_of {i : Instr} {s t : State} (h : exec i s = .next t) {P : Bank → Prop} (hsame : P (s.bank i.id))
    (hput : (∀ c ∈ commandChecks i s, c.ok = true) → ∀ k r, (commandEffect i s).put = .bank k r → r = (s.chan i.id).achRate ∧ P k) :
    (t.chan i.id).achRate = (s.chan i.id).achRate ∧ P (t.bank i.id) :=
  exec_chan (P := fun c => c.achRate = (s.chan i.id).achRate ∧ P c.bank) h ⟨rfl, hsame⟩ hput

/-- Settles O37: each command puts its bank with the components it runs. -/
theorem chainCommandsFrame : Obligations.ChainCommandsFrame := by
  intro s t w id hwf hconf
  refine ⟨fun h => ⟨exec_bankFrame h hwf hconf rfl, exec_counters h rfl, ?_⟩,
    fun h => ⟨exec_bankFrame h hwf hconf rfl, exec_counters h rfl, ?_⟩,
    fun h => ⟨exec_bankFrame h hwf hconf rfl, exec_counters h rfl, ?_⟩⟩
  · refine exec_chan (P := fun c => c.bank = { s.bank id with chain := c.bank.chain, frac := c.bank.frac }) h rfl fun _ k r hk => ?_
    cases hk
    rfl
  · refine exec_bank_of (P := fun k => k = { s.bank id with chain := { (s.bank id).chain with stages := k.chain.stages } }) h rfl
      fun _ k r hk => ?_
    cases hk
    exact ⟨rfl, rfl⟩
  · refine exec_bank_of (P := fun k => k = { s.bank id with frac := k.frac }) h rfl fun _ k r hk => ?_
    cases hk
    exact ⟨rfl, rfl⟩

/-- Settles O41: DEMOD keeps what is latched, RESTORE runs the interpolating stages, MOD the adapter. -/
theorem demodCommandsFrame : Obligations.DemodCommandsFrame := by
  intro s t id hwf hconf
  refine ⟨fun h => ⟨exec_bankFrame h hwf hconf rfl, exec_counters h rfl, ?_⟩,
    fun h => ⟨exec_bankFrame h hwf hconf rfl, exec_counters h rfl, ?_⟩,
    fun h => ⟨exec_bankFrame h hwf hconf rfl, exec_counters h rfl, ?_⟩,
    fun h => ⟨exec_bankFrame h hwf hconf rfl, exec_counters h rfl, ?_⟩,
    fun h => ⟨exec_bankFrame h hwf hconf rfl, exec_counters h rfl, ?_⟩⟩
  · refine exec_bank_of (P := fun k => k = { s.bank id with demod := k.demod }) h rfl fun _ k r hk => ?_
    cases hk
    exact ⟨rfl, rfl⟩
  · refine exec_bank_of (P := fun k => k = { s.bank id with demod := { k.demod with
      valid := (s.bank id).demod.valid, mode := (s.bank id).demod.mode, inRate := (s.bank id).demod.inRate,
      rxfLower := (s.bank id).demod.rxfLower, int := (s.bank id).demod.int } }) h rfl fun _ k r hk => ?_
    cases hk
    obtain ⟨⟨hvalid, hmode, hrate, hlower⟩, hint⟩ := (s.runDemod_latched (s.bankRegs id) (s.bank id).demod
      (min s.cfg.maxBlock s.opN) (s.input .cplx)).commit (s.demodRun id).bad
    refine ⟨rfl, ?_⟩
    rw [← hvalid, ← hmode, ← hrate, ← hlower, ← hint]
    rfl
  · refine exec_bank_of (P := fun k => k = { s.bank id with demod := { (s.bank id).demod with int := k.demod.int } }) h rfl
      fun _ k r hk => ?_
    cases hk
    have hint : (s.restoreRun id).Keeps fun u => u = { (s.bank id).demod with int := u.int } := ⟨rfl, rfl⟩
    exact ⟨rfl, congrArg (fun d => { s.bank id with demod := d }) (hint.commit _)⟩
  · refine exec_bank_of (P := fun k => k = { s.bank id with tx := k.tx }) h rfl fun _ k r hk => ?_
    cases hk
    exact ⟨rfl, rfl⟩
  · refine exec_bank_of (P := fun k => k = { s.bank id with tx := { (s.bank id).tx with adapter := k.tx.adapter } }) h rfl
      fun _ k r hk => ?_
    cases hk
    exact ⟨rfl, rfl⟩

/-- Settles O48: each command puts its bank with its component, and the registers that show it. -/
theorem componentCommandsFrame : Obligations.ComponentCommandsFrame := by
  intro s t v id hwf hconf
  refine ⟨fun h => ⟨exec_bankFrame h hwf hconf rfl, exec_counters h rfl, ?_⟩,
    fun h => ⟨exec_bankFrame h hwf hconf rfl, ?_, ?_⟩,
    fun h => ⟨exec_bankFrame h hwf hconf rfl, exec_counters h rfl, ?_⟩,
    fun h => ⟨exec_bankFrame h hwf hconf rfl, exec_counters h ?_, ?_⟩,
    fun h => ⟨exec_bankFrame h hwf hconf rfl, ?_, ?_⟩,
    fun h => ⟨exec_bankFrame h hwf hconf rfl, ?_, ?_⟩⟩
  · refine exec_bank_of (P := fun k => k = { s.bank id with agc := k.agc }) h rfl fun _ k r hk => ?_
    cases hk
    exact ⟨rfl, rfl⟩
  · cases exec_endsAs h with
    | refused | starved => simp [State.raise, State.consulted]
    | completed =>
      by_cases h0 : id = 0
      · simp [State.done_cr, commandEffect, Effect.buffer, CtrlRegs.afterAgc_eq, h0]
      · simp [State.done_cr, commandEffect, Effect.buffer, CtrlRegs.afterAgc_eq, h0]
  · refine exec_bank_of (P := fun k => k = { s.bank id with agc := k.agc }) h rfl fun _ k r hk => ?_
    cases hk
    exact ⟨rfl, rfl⟩
  · refine exec_bank_of (P := fun k => k = { s.bank id with nb := k.nb }) h rfl fun _ k r hk => ?_
    cases hk
    exact ⟨rfl, rfl⟩
  · dsimp only [commandEffect]
    split <;> rfl
  · refine exec_bank_of (P := fun k => k = { s.bank id with nb := k.nb }) h rfl fun _ k r hk => ?_
    dsimp only [commandEffect] at hk
    split at hk <;> cases hk
    exact ⟨rfl, rfl⟩
  · cases exec_endsAs h with
    | refused | starved => rfl
    | completed => simp [State.done_cr, commandEffect, CtrlRegs.showNotch]
  · refine exec_bank_of (P := fun k => k = { s.bank id with notch := k.notch }) h rfl fun _ k r hk => ?_
    cases hk
    exact ⟨rfl, rfl⟩
  · cases exec_endsAs h with
    | refused | starved => rfl
    | completed => rfl
  · refine exec_bank_of (P := fun k => k = { s.bank id with notch := k.notch }) h rfl fun _ k r hk => ?_
    cases hk
    exact ⟨rfl, rfl⟩

/-! ### PIPERX (R401) -/

/-- What PIPERX keeps of a bank: the transmit state, what DMINIT, CHSEL and ANINIT latched, what is in use, and the components of stages
that do not run. -/
structure State.KeepsOfBank (s : State) (id : Nat) (k : Bank) : Prop where
  tx : k.tx = (s.bank id).tx
  chain : k.chain = { (s.bank id).chain with stages := k.chain.stages }
  demod : (s.bank id).demod.SameLatched k.demod
  nb : k.nb.valid = (s.bank id).nb.valid ∧ (s.cr.nbLevel = 0 → k.nb = (s.bank id).nb)
  agc : k.agc.valid = (s.bank id).agc.valid
  notch : k.notch.valid = (s.bank id).notch.valid ∧ k.notch.fs = (s.bank id).notch.fs
  notchOff : ¬s.NotchRuns id → k.notch = (s.bank id).notch
  frac : (s.bank id).chain.achRate.eqv (s.bank id).demod.inRate = true → k.frac = (s.bank id).frac

/-- What PIPERX keeps of telemetry: the meters of another bank than the primary one, the bins of a notch that does not run (R411). -/
structure State.KeepsOfTelemetry (s : State) (id : Nat) (c : CtrlRegs) : Prop where
  meters : id ≠ 0 → c.smeter = s.cr.smeter ∧ c.audioRms = s.cr.audioRms ∧ c.agcGain = s.cr.agcGain
  bins : ¬s.NotchRuns id → c.notchBin0 = s.cr.notchBin0 ∧ c.notchBin1 = s.cr.notchBin1

/-- What PIPERX keeps in its working copy, as the rules compute it and freed. -/
structure State.PipeKeeps (s : State) (id : Nat) (p : Pipe) : Prop where
  bank : s.KeepsOfBank id p.bank
  freed : s.KeepsOfBank id p.bankFreed
  cr : s.KeepsOfTelemetry id p.cr
  crFreed : s.KeepsOfTelemetry id p.crFreed

section
variable {s : State} {id : Nat} {p : Pipe} {k : Bank}

/-- A stage that runs a component keeps what its new component keeps. -/
theorem State.PipeKeeps.ran {σ : Type} {r : Run σ} {set : σ → Bank → Bank} (h : s.PipeKeeps id p)
    (hset : (∀ k, s.KeepsOfBank id k → s.KeepsOfBank id (set r.st k)) ∧ ∀ k, s.KeepsOfBank id k → s.KeepsOfBank id (set r.freed k)) :
    s.PipeKeeps id (p.ran r set) :=
  ⟨hset.1 _ h.bank, hset.2 _ h.freed, h.cr, h.crFreed⟩

theorem State.PipeKeeps.blank (h : s.PipeKeeps id p) : s.PipeKeeps id (s.pipeBlank p) := by
  unfold State.pipeBlank
  split
  · exact h
  next hon =>
    have hr := s.runNb_valid p.bank.nb p.x
    exact h.ran ⟨fun k hk => { hk with nb := ⟨hr.st.trans h.bank.nb.1, fun h0 => absurd h0 hon⟩ },
      fun k hk => { hk with nb := ⟨hr.freed.trans h.bank.nb.1, fun h0 => absurd h0 hon⟩ }⟩

theorem State.PipeKeeps.chain (h : s.PipeKeeps id p) : s.PipeKeeps id (s.pipeChain p) := by
  have hset (st : List StageInst) (k : Bank) (hk : s.KeepsOfBank id k) :
      s.KeepsOfBank id { k with chain := { k.chain with stages := st } } :=
    { hk with chain := by rw [hk.chain] }
  exact h.ran ⟨hset _, hset _⟩

theorem State.PipeKeeps.frac (h : s.PipeKeeps id p) : s.PipeKeeps id (s.pipeFrac p) := by
  unfold State.pipeFrac
  split
  next hruns =>
    have hset (f : FracState) (k : Bank) (hk : s.KeepsOfBank id k) : s.KeepsOfBank id { k with frac := f } := by
      refine { hk with frac := fun heq => ?_ }
      rw [Bank.fractional, h.bank.chain, h.bank.demod.2.2.1, heq] at hruns
      cases hruns
    exact h.ran ⟨hset _, hset _⟩
  · exact h

theorem State.PipeKeeps.agc (h : s.PipeKeeps id p) (cx : Bool) : s.PipeKeeps id (s.pipeAgc id cx p) := by
  have hr := s.runAgc_valid p.bank.agc cx p.x
  have hmeters {c : CtrlRegs} (hc : s.KeepsOfTelemetry id c) (n : Nat) (g : Real64) : s.KeepsOfTelemetry id (c.afterAgc id n g) := by
    refine { hc with meters := fun h0 => ?_ }
    rw [CtrlRegs.afterAgc_eq, if_neg h0]
    exact hc.meters h0
  exact ⟨{ h.bank with agc := hr.st.trans h.bank.agc }, { h.freed with agc := hr.freed.trans h.bank.agc }, hmeters h.cr _ _,
    hmeters h.crFreed _ _⟩

theorem DemodState.SameLatched.trans {d e f : DemodState} (h : d.SameLatched e) (h' : e.SameLatched f) : d.SameLatched f := by
  obtain ⟨hv, hm, hr, hl⟩ := h
  obtain ⟨hv', hm', hr', hl'⟩ := h'
  exact ⟨hv'.trans hv, hm'.trans hm, hr'.trans hr, hl'.trans hl⟩

theorem State.PipeKeeps.demod (h : s.PipeKeeps id p) : s.PipeKeeps id (s.pipeDemod id p) := by
  have hr := s.runDemod_latched (s.bankRegs id) p.bank.demod s.cfg.maxBlock p.x
  exact h.ran ⟨fun k hk => { hk with demod := h.bank.demod.trans hr.st.1 }, fun k hk => { hk with demod := h.bank.demod.trans hr.freed.1 }⟩

theorem State.PipeKeeps.notchStage (h : s.PipeKeeps id p) : s.PipeKeeps id (s.pipeNotch id (s.latchedMode id).kind p) := by
  unfold State.pipeNotch
  split
  next hruns =>
    have hon := (s.notchRuns_iff id).mp hruns
    have hr := s.runNotch_latched p.bank.notch p.x
    have hset {t : NotchState} {k : Bank} (hk : s.KeepsOfBank id k) (ht : t.valid = p.bank.notch.valid ∧ t.fs = p.bank.notch.fs) :
        s.KeepsOfBank id { k with notch := t } :=
      { hk with notch := ⟨ht.1.trans h.bank.notch.1, ht.2.trans h.bank.notch.2⟩, notchOff := fun hoff => absurd hon hoff }
    exact ⟨hset h.bank hr.st, hset h.freed hr.freed, { h.cr with bins := fun hoff => absurd hon hoff },
      { h.crFreed with bins := fun hoff => absurd hon hoff }⟩
  · exact h

theorem State.PipeKeeps.restore (h : s.PipeKeeps id p) : s.PipeKeeps id (s.pipeRestore p) := by
  have hset (st : List StageInst) (k : Bank) (hk : s.KeepsOfBank id k) :
      s.KeepsOfBank id { k with demod := { k.demod with int := st } } :=
    { hk with demod := hk.demod }
  exact h.ran ⟨hset _, hset _⟩

end

/-- The pipeline keeps what no stage of it writes (R401). -/
theorem State.pipe_keeps (s : State) (id : Nat) : s.PipeKeeps id (s.pipe id) := by
  have hbank : s.KeepsOfBank id (s.bank id) :=
    ⟨rfl, rfl, ⟨rfl, rfl, rfl, rfl⟩, ⟨rfl, fun _ => rfl⟩, rfl, ⟨rfl, rfl⟩, fun _ => rfl, fun _ => rfl⟩
  have hcr : s.KeepsOfTelemetry id s.cr := ⟨fun _ => ⟨rfl, rfl, rfl⟩, fun _ => ⟨rfl, rfl⟩⟩
  refine State.pipe_induction (P := s.PipeKeeps id) ⟨hbank, hbank, hcr, hcr⟩ (fun p h => ?_) (fun p h => h.blank)
    (fun p h => h.chain) (fun p h => h.frac) (fun p h => ?_) (fun cx p h => h.agc cx) (fun p h => h.demod)
    (fun p h => h.notchStage) (fun p h => h.restore) (fun sig p h => ?_) (fun p h => ?_) (fun p h => ?_) _
  · exact ⟨{ h.bank with }, { h.freed with }, h.cr, h.crFreed⟩
  · unfold State.pipeSmeter
    split
    next h0 => exact ⟨h.bank, h.freed, { h.cr with meters := fun hne => absurd h0 hne }, { h.crFreed with meters := fun hne => absurd h0 hne }⟩
    · exact h
  · unfold State.pipeSquelch
    split
    · exact ⟨h.bank, h.freed, h.cr, h.crFreed⟩
    · exact h
  · unfold State.pipeRms
    split
    next h0 => exact ⟨h.bank, h.freed, { h.cr with meters := fun hne => absurd h0 hne }, { h.crFreed with meters := fun hne => absurd h0 hne }⟩
    · exact h
  · exact ⟨{ h.bank with }, { h.freed with }, h.cr, h.crFreed⟩

/-- What PIPERX puts keeps what the working copy keeps. -/
theorem piperx_keeps {s : State} {id : Nat} {k : Bank} {r : Real64} (h : (commandEffect (.piperx id) s).put = .bank k r) :
    r = (s.chan id).achRate ∧ s.KeepsOfBank id k := by
  obtain ⟨hbank, hfreed, -, -⟩ := s.pipe_keeps id
  cases h
  refine ⟨rfl, ?_⟩
  split
  · exact hfreed
  · exact hbank

/-- Settles O56: a property of the working copy that every stage keeps. -/
theorem piperxFrame : Obligations.PiperxFrame := by
  intro s t id hwf hconf h
  have hself : s.KeepsOfBank id (s.bank id) :=
    ⟨rfl, rfl, ⟨rfl, rfl, rfl, rfl⟩, ⟨rfl, fun _ => rfl⟩, rfl, ⟨rfl, rfl⟩, fun _ => rfl, fun _ => rfl⟩
  obtain ⟨hrate, hk⟩ := exec_bank_of (P := s.KeepsOfBank id) h hself fun _ k r => piperx_keeps
  have hcr : s.KeepsOfTelemetry id t.cr := by
    refine exec_cr h ⟨fun _ => ⟨rfl, rfl, rfl⟩, fun _ => ⟨rfl, rfl⟩⟩ (fun _ => ?_) fun c _ _ _ hc => ⟨hc.meters, hc.bins⟩
    obtain ⟨-, -, hcr, hcrFreed⟩ := s.pipe_keeps id
    dsimp only [commandEffect, Effect.buffer]
    split
    · exact hcrFreed
    · exact hcr
  obtain ⟨hvalid, hmode, hinRate, hlower⟩ := hk.demod
  have hoff (hn : id ≠ 0 ∨ s.cr.notchEn = false ∨ s.demodKind id = .digRaw) : ¬s.NotchRuns id := by
    rintro ⟨h0, hen, hkind⟩
    rcases hn with hn | hn | hn
    · exact hn h0
    · exact absurd (hn.symm.trans hen) (by decide)
    · exact hkind hn
  exact ⟨exec_bankFrame h hwf hconf rfl, hrate, hk.tx, hk.chain, hvalid, hmode, hinRate, hlower, hk.nb.2, hk.notch.1, hk.notch.2,
    fun hn => ⟨hk.notchOff (hoff hn), hcr.bins (hoff hn)⟩, hk.frac, hcr.meters⟩

/-! ### What is in use (R33, R61 to R68) -/

theorem firRun_commit_bound (ser : Nat) (pl : Place) (f : FilterInst) (x : List Cplx) (r : FirLoop) (bad : Bool) :
    ((firRun ser pl f x r).commit bad).bound = r.f.bound := by
  cases bad <;> rfl

theorem hbRun_commit_bound (ser : Nat) (pl : Place) (x : List Cplx) (r : HbLoop) (bad : Bool) :
    ((hbRun ser pl x r).commit bad).bound = r.i.bound := by
  cases bad
  · rfl
  · dsimp only [hbRun, Run.commit_true, HBInst.freed]
    split <;> rfl

/-- Only FINIT binds a filter (R162). -/
theorem exec_filter_bound {i : Instr} {s t : State} (h : exec i s = .next t) (hi : ∀ v, i ≠ .finit v i.id) :
    (t.filter i.id).bound = (s.filter i.id).bound := by
  refine exec_filter (P := fun g => g.bound = (s.filter i.id).bound) h rfl fun _ f hf => ?_
  cases i with
  | finit v id => exact absurd rfl (hi v)
  | ftune => cases hf; rfl
  | fapply id => cases hf; exact (firRun_commit_bound ..).trans (firApply_spec ..).2.2.2.1.1
  | fdecim id => cases hf; exact (firRun_commit_bound ..).trans (firDecim_spec ..).2.2.2.1
  | finterp id => cases hf; exact (firRun_commit_bound ..).trans ((firInterp_spec ..).2.2.1.1.trans (FilterInst.grown_bound ..))
  | fresamp id => cases hf; exact (firRun_commit_bound ..).trans ((firResamp_spec ..).2.1.trans (FilterInst.grown_bound ..))
  | nbrun =>
    dsimp only [commandEffect] at hf
    split at hf <;> cases hf
  | _ => cases hf

/-- Only HBINIT binds a half-band (R204). -/
theorem exec_half_bound {i : Instr} {s t : State} (h : exec i s = .next t) (hi : ∀ v, i ≠ .hbinit v i.id) :
    (t.half i.id).bound = (s.half i.id).bound := by
  refine exec_half (P := fun g => g.bound = (s.half i.id).bound) h rfl fun _ f hf => ?_
  cases i with
  | hbinit v id => exact absurd rfl (hi v)
  | hbdec2 id => cases hf; exact (hbRun_commit_bound ..).trans (by rw [hbDec2_frame]; rfl)
  | hbint2 id => cases hf; exact (hbRun_commit_bound ..).trans (by rw [hbInt2_frame]; rfl)
  | nbrun =>
    dsimp only [commandEffect] at hf
    split at hf <;> cases hf
  | _ => cases hf

/-- A bank's component is in use as before when its initialiser did not run. -/
structure Bank.UsedAs (b k : Bank) (i : Instr) (j : Nat) : Prop where
  chain : (∀ w, i ≠ .chsel w j) → k.chain.valid = b.chain.valid
  demod : i ≠ .dminit j → k.demod.valid = b.demod.valid
  tx : i ≠ .modinit j → k.tx.valid = b.tx.valid
  agc : (∀ f, i ≠ .agcinit f j) → k.agc.valid = b.agc.valid
  nb : i ≠ .nbinit j → k.nb.valid = b.nb.valid
  notch : i ≠ .aninit j → k.notch.valid = b.notch.valid

theorem Bank.usedAs_refl (b : Bank) (i : Instr) (j : Nat) : b.UsedAs b i j :=
  ⟨fun _ => rfl, fun _ => rfl, fun _ => rfl, fun _ => rfl, fun _ => rfl, fun _ => rfl⟩

/-- What a command puts in the place of its bank has in use what the bank had, but for its own initialiser and BKFREE. -/
theorem commandEffect_usedAs {i : Instr} {s : State} {k : Bank} {r : Real64} (hput : (commandEffect i s).put = .bank k r)
    (hfree : i ≠ .bkfree i.id) : (s.bank i.id).UsedAs k i i.id := by
  have hself := (s.bank i.id).usedAs_refl i i.id
  cases i with
  | chsel w id => cases hput; exact { hself with chain := fun h => absurd rfl (h w) }
  | dminit id => cases hput; exact { hself with demod := fun h => absurd rfl h }
  | modinit id => cases hput; exact { hself with tx := fun h => absurd rfl h }
  | agcinit f id => cases hput; exact { hself with agc := fun h => absurd rfl (h f) }
  | nbinit id => cases hput; exact { hself with nb := fun h => absurd rfl h }
  | aninit id => cases hput; exact { hself with notch := fun h => absurd rfl h }
  | bkfree id => exact absurd rfl hfree
  | chrun | frac | mod => cases hput; exact { hself with }
  | demod id => cases hput; exact { hself with demod := fun _ => ((s.runDemod_latched ..).commit _).1.1 }
  | restore id =>
    cases hput
    have hint : (s.restoreRun id).Keeps fun u => u.valid = (s.bank id).demod.valid := ⟨rfl, rfl⟩
    exact { hself with demod := fun _ => hint.commit _ }
  | agcrun x id => cases hput; exact { hself with agc := fun _ => (s.runAgc_valid ..).commit _ }
  | nbrun id =>
    dsimp only [commandEffect] at hput
    split at hput <;> cases hput
    exact { hself with nb := fun _ => (s.runNb_valid ..).commit _ }
  | anrun id => cases hput; exact { hself with notch := fun _ => ((s.runNotch_latched ..).commit _).1 }
  | piperx id =>
    obtain ⟨-, hk⟩ := piperx_keeps hput
    exact ⟨fun _ => by rw [hk.chain]; rfl, fun _ => hk.demod.1, fun _ => by rw [hk.tx]; rfl, fun _ => hk.agc, fun _ => hk.nb.1,
      fun _ => hk.notch.1⟩
  | _ => cases hput

/-- Settles O18: what another `ID` names stays, and each command keeps what is in use of what its own `ID` names. -/
theorem onlyInitialisersBind : Obligations.OnlyInitialisersBind := by
  intro i s t j h
  by_cases hj : j = i.id
  · subst hj
    refine ⟨exec_filter_bound h, exec_half_bound h, fun hfree => ?_⟩
    have hused : (s.bank i.id).UsedAs (t.bank i.id) i i.id :=
      exec_chan (P := fun c => (s.bank i.id).UsedAs c.bank i i.id) h (Bank.usedAs_refl ..)
        fun _ k r hput => commandEffect_usedAs hput hfree
    exact ⟨hused.chain, hused.demod, hused.tx, hused.agc, hused.nb, hused.notch⟩
  · obtain ⟨-, -, -, hother⟩ := commandsKeepOthersState i s t h
    obtain ⟨hfilter, hhalf, hchan⟩ := hother j hj
    have hbank : t.bank j = s.bank j := congrArg Channel.bank hchan
    rw [hfilter, hhalf, hbank]
    exact ⟨fun _ => rfl, fun _ => rfl, fun _ => ⟨fun _ => rfl, fun _ => rfl, fun _ => rfl, fun _ => rfl, fun _ => rfl, fun _ => rfl⟩⟩

end Sys2Proof.Machine
end

section
/-! PROOFS. What the commands refuse, in the order of R450 (spec/60_exceptions.md R441, R444): the count, the bounds, what was never
initialised, the tables, the operands. -/

namespace Sys2Proof.Machine

/-! ### The first check that fails -/

/-- A command raises what the first failing of its checks reports (R444, R450). -/
theorem raises_of_firstFail {i : Instr} {s : State} (e : Err) {w : Word64} (h : firstFail (commandChecks i s) = some (e, w)) :
    s.Raises i e.code w :=
  ⟨s.raise e w, exec_of_refused h, rfl⟩

theorem firstFail_cons_ok {c : Check} (cs : List Check) (h : c.ok = true) : firstFail (c :: cs) = firstFail cs := by
  rw [firstFail, if_pos h]

theorem firstFail_cons_fails {c : Check} (cs : List Check) (h : c.ok = false) : firstFail (c :: cs) = some (c.err, c.info) := by
  rw [firstFail, if_neg (by rw [h]; decide)]

theorem State.boundsCheck_fails {s : State} {base : Word64} {e : Nat} (h : s.cfg.smSize < base.toNat + e) :
    (s.boundsCheck base e).ok = false := by
  rw [← Bool.not_eq_true, s.boundsCheck_ok]
  omega

theorem State.sizeCheck_fails {s : State} (h : s.cfg.maxBlock < s.opN) : s.sizeCheck.ok = false := by
  rw [← Bool.not_eq_true, s.sizeCheck_ok]
  omega

theorem State.ratioCheck_ok {s : State} {r : Nat} : (s.ratioCheck r).ok = true ↔ 1 ≤ r ∧ r ≤ s.cfg.maxTaps :=
  decide_eq_true_iff

theorem State.ratioCheck_fails {s : State} {r : Nat} (h : ¬(1 ≤ r ∧ r ≤ s.cfg.maxTaps)) : (s.ratioCheck r).ok = false :=
  decide_eq_false h

/-- A table that does not resolve fails the check of its instance (R93). -/
theorem State.tableCheck_fails {s : State} {f : FilterInst} (h : s.Unresolved f) : (s.tableCheck f).ok = false := by
  rw [State.tableCheck, State.tableFor]
  cases ht : s.table f.tab with
  | none => rfl
  | some tb => simp [Option.filter, h tb ht]

theorem State.slotCheck_fails {s : State} {t : Nat} (h : s.table t = none) : (s.slotCheck t).ok = false := by
  rw [State.slotCheck, h]
  rfl

/-- A table of its length resolves an instance (R93). -/
theorem State.tableCheck_ok {s : State} {f : FilterInst} (h : ∃ t, s.table f.tab = some t ∧ t.val.length = f.taps) :
    (s.tableCheck f).ok = true := by
  obtain ⟨t, ht, hlen⟩ := h
  simp [State.tableCheck, State.tableFor, ht, Option.filter, hlen]

theorem ratioChecks_ok {s : State} {r : Nat} (h : 1 ≤ r ∧ r ≤ s.cfg.maxTaps) : ∀ c ∈ [s.ratioCheck r], c.ok = true :=
  List.forall_mem_singleton.mpr (State.ratioCheck_ok.mpr h)

theorem State.extentUp_le {s : State} {n m : Nat} (h : n ≤ s.cfg.maxBlock) : s.extentUp n m ≤ s.cfg.maxBlock :=
  Nat.max_le.mpr ⟨h, Nat.min_le_right ..⟩

/-! ### The checks the commands on a buffer share -/

section
variable {s : State} {id e : Nat} {ops rest : List Check}

/-- A filter's operands come right after the count (R450; log 14). -/
theorem firstFail_filterChecks_operands (hid : id < s.nfilt) (hn : s.opN ≤ s.cfg.maxBlock) {p : Err × Word64}
    (h : firstFail ops = some p) : firstFail (s.filterChecks id e ops ++ rest) = some p := by
  simp only [State.filterChecks, List.append_assoc, List.cons_append, List.nil_append]
  rw [firstFail_cons_ok _ ((idCheck_ok _ _).mpr hid), firstFail_cons_ok _ (s.sizeCheck_ok.mpr hn)]
  exact firstFail_append_of_some _ h

/-- After its operands a filter's checks are the bounds, its binding and its table (R164, R450). -/
theorem firstFail_filterChecks (hid : id < s.nfilt) (hn : s.opN ≤ s.cfg.maxBlock) (hops : ∀ c ∈ ops, c.ok = true) :
    firstFail (s.filterChecks id e ops ++ rest) =
      firstFail (s.boundsCheck s.a0 e :: boundCheck (s.filter id).bound id :: s.tableCheck (s.filter id) :: rest) := by
  simp only [State.filterChecks, List.append_assoc, List.cons_append, List.nil_append]
  rw [firstFail_cons_ok _ ((idCheck_ok _ _).mpr hid), firstFail_cons_ok _ (s.sizeCheck_ok.mpr hn), firstFail_append _ _ hops]

theorem firstFail_halfChecks (hid : id < s.nhb) (hn : s.opN ≤ s.cfg.maxBlock) :
    firstFail (s.halfChecks id e) = firstFail [s.boundsCheck s.a0 e, boundCheck (s.half id).bound id] := by
  rw [State.halfChecks, firstFail_cons_ok _ ((idCheck_ok _ _).mpr hid), firstFail_cons_ok _ (s.sizeCheck_ok.mpr hn)]

theorem firstFail_bankBufChecks (hid : id < s.nbanks) (hn : s.opN ≤ s.cfg.maxBlock) :
    firstFail (s.bankBufChecks id e ++ rest) = firstFail (s.boundsCheck s.a0 e :: rest) := by
  simp only [State.bankBufChecks, List.cons_append, List.nil_append]
  rw [firstFail_cons_ok _ ((idCheck_ok _ _).mpr hid), firstFail_cons_ok _ (s.sizeCheck_ok.mpr hn)]

/-- Bounds that do not fit are reported with the base (R86, R441). -/
theorem firstFail_bounds {w : Word64} (h : s.cfg.smSize < w.toNat + e) :
    firstFail (s.boundsCheck w e :: rest) = some (.bounds, w) :=
  firstFail_cons_fails _ (State.boundsCheck_fails h)

/-- Bounds that fit leave the next check (R86). -/
theorem firstFail_fits {w : Word64} (h : w.toNat + e ≤ s.cfg.smSize) : firstFail (s.boundsCheck w e :: rest) = firstFail rest :=
  firstFail_cons_ok _ ((s.boundsCheck_ok _ _).mpr h)

/-- A thing never initialised is reported with its `ID` (R67, R441). -/
theorem firstFail_unbound {b : Bool} (h : b = false) : firstFail (boundCheck b id :: rest) = some (.unbound, BitVec.ofNat 64 id) :=
  firstFail_cons_fails _ h

theorem firstFail_bound {b : Bool} (h : b = true) : firstFail (boundCheck b id :: rest) = firstFail rest := firstFail_cons_ok _ h

end

/-! ### The count and the bounds -/

/-- A command on a buffer checks its `ID` and its count before everything else (R450). -/
theorem commandChecks_inPlace {i : Instr} {s : State} (h : inPlace i = true) :
    ∃ n rest, s.idCount (idKind i) = some n ∧ commandChecks i s = idCheck i.id n :: s.sizeCheck :: rest := by
  cases i <;> cases h <;> exact ⟨_, _, rfl, rfl⟩

/-- An extent within `MAXBLOCK` of a base that has room for `MAXBLOCK` fits (R86). -/
theorem State.BufferOk.fits {s : State} (h : s.BufferOk s.cfg.maxBlock) {e : Nat} (he : e ≤ s.cfg.maxBlock) :
    s.a0.toNat + e ≤ s.cfg.smSize :=
  (Nat.add_le_add_left he _).trans h.2

/-- The components the stages of PIPERX need are in use (R401 step 5). -/
def State.pipeBoundCheck (s : State) (id : Nat) : Check :=
  boundCheck ((s.bank id).chain.valid && (s.bank id).demod.valid && (s.bank id).agc.valid &&
    (decide (s.cr.nbLevel = 0) || (s.bank id).nb.valid) &&
    (!s.notchRuns id (s.latchedMode id).kind || (s.bank id).notch.valid)) id

/-- What PIPERX checks of the rate and the tuning frequency (R401 step 6). -/
def State.pipeTuneChecks (s : State) (id : Nat) : List Check :=
  let rate := s.cfg.rateHz (s.bank id).chain.rateId
  [ ⟨rate.isSome, .param, 0⟩,
    ⟨(s.bankRegs id).tune.isFinite && (s.bankRegs id).tune.abs.le ((Real64.ofNat (rate.getD 0)).div .two), .param, 0⟩ ]

/-- What the stages of PIPERX check, in their order (R401 step 7). -/
def State.pipeStageChecks (s : State) (id : Nat) : List Check :=
  s.agcChecks ++ (s.stageChecks (s.bank id).chain.stages ++ ((if (s.bank id).fractional then [stepCheck (s.bank id).fracStep] else []) ++
    (s.demodChecks (s.bank id).demod (s.bankRegs id) ++ s.stageChecks (s.bank id).demod.int)))

/-- PIPERX on a bank below `NRX` checks its operands, the components in use, the tuning and its stages (R401). -/
theorem firstFail_pipeChecks {s : State} {id : Nat} (hlt : id < s.cr.nrx.toNat) (hnrx : s.cr.nrx.toNat ≤ s.nbanks) :
    firstFail (commandChecks (.piperx id) s) = firstFail (s.sizeCheck :: ⟨decide (1 ≤ s.opN), .noData, 0⟩ ::
      s.boundsCheck s.a0 s.opN :: s.boundsCheck s.a2 s.cfg.maxBlock :: s.pipeBoundCheck id ::
      (s.pipeTuneChecks id ++ s.pipeStageChecks id)) := by
  simp only [commandChecks, State.pipeChecks, List.append_assoc, List.cons_append]
  rw [firstFail_cons_ok _ ((idCheck_ok _ _).mpr (hlt.trans_le hnrx)), firstFail_cons_ok _ (decide_eq_true (by omega))]
  rfl

/-- Settles O20: the count and the bounds are the first checks to fail of those the commands share. -/
theorem countAndBoundsErrors : Obligations.CountAndBoundsErrors := by
  intro s id x
  refine ⟨fun i hi hid hn => ?_, fun hlt hnrx hn => ?_, fun hn => ⟨fun hid => ?_, fun hid => ?_, fun hid => ?_, fun hlt hnrx hpos => ?_⟩⟩
  · obtain ⟨n, rest, hcount, hchecks⟩ := commandChecks_inPlace (s := s) hi
    refine raises_of_firstFail .size ?_
    rw [hchecks, firstFail_cons_ok _ ((idCheck_ok _ _).mpr (hid n hcount)), firstFail_cons_fails _ (State.sizeCheck_fails hn)]
    rfl
  · have hchecks := firstFail_pipeChecks hlt hnrx
    exact raises_of_firstFail .size (hchecks.trans (firstFail_cons_fails _ (State.sizeCheck_fails hn)))
  · have hrun {i : Instr} {e : Nat} {ops rest : List Check} (hi : commandChecks i s = s.filterChecks id e ops ++ rest)
        (hops : ∀ c ∈ ops, c.ok = true) (hpast : s.cfg.smSize < s.opA + e) : s.Raises i 7 s.a0 :=
      raises_of_firstFail .bounds (by rw [hi, firstFail_filterChecks hid hn hops]; exact firstFail_bounds hpast)
    exact ⟨hrun (List.append_nil _).symm nofun, fun h2 => hrun rfl (ratioChecks_ok h2),
      fun h2 => hrun (List.append_nil _).symm (ratioChecks_ok h2),
      fun h2 h3 => hrun (List.append_nil _).symm (List.forall_mem_cons.mpr ⟨State.ratioCheck_ok.mpr h2, ratioChecks_ok h3⟩)⟩
  · exact ⟨fun h => raises_of_firstFail .bounds ((firstFail_halfChecks hid hn).trans (firstFail_bounds h)),
      fun h => raises_of_firstFail .bounds ((firstFail_halfChecks hid hn).trans (firstFail_bounds h))⟩
  · have hrun {i : Instr} {e : Nat} {rest : List Check} (hi : commandChecks i s = s.bankBufChecks id e ++ rest)
        (hpast : s.cfg.smSize < s.opA + e) : s.Raises i 7 s.a0 :=
      raises_of_firstFail .bounds (by rw [hi, firstFail_bankBufChecks hid hn]; exact firstFail_bounds hpast)
    refine ⟨fun h => ⟨hrun (List.append_assoc ..) h, hrun (List.append_assoc ..) h, hrun rfl h, hrun rfl h⟩, fun hstep h => ?_,
      hrun (List.append_assoc ..), hrun rfl, hrun rfl⟩
    refine raises_of_firstFail .bounds ?_
    rw [commandChecks, firstFail_cons_ok _ ((idCheck_ok _ _).mpr hid), firstFail_cons_ok _ (s.sizeCheck_ok.mpr hn),
      firstFail_cons_ok _ hstep]
    exact firstFail_bounds h
  · have hchecks := firstFail_pipeChecks hlt hnrx
    rw [firstFail_cons_ok _ (s.sizeCheck_ok.mpr hn), firstFail_cons_ok _ (decide_eq_true hpos)] at hchecks
    refine ⟨fun h => raises_of_firstFail .bounds (hchecks.trans (firstFail_bounds h)), fun h h2 => ?_⟩
    exact raises_of_firstFail .bounds (hchecks.trans ((firstFail_fits (Nat.le_of_not_lt h)).trans (firstFail_bounds h2)))

/-! ### Things never initialised -/

/-- Operands that PIPERX accepts leave the components in use as its next check (R401). -/
theorem firstFail_pipeChecks_of_operands {s : State} {id : Nat} (h : s.PipeOperandsOk id) :
    firstFail (commandChecks (.piperx id) s) = firstFail (s.pipeBoundCheck id :: (s.pipeTuneChecks id ++ s.pipeStageChecks id)) := by
  obtain ⟨hlt, hnrx, hpos, hn, hin, hout⟩ := h
  rw [firstFail_pipeChecks hlt hnrx, firstFail_cons_ok _ (s.sizeCheck_ok.mpr hn), firstFail_cons_ok _ (decide_eq_true hpos),
    firstFail_fits hin, firstFail_fits hout]

theorem State.pipeBoundCheck_ok {s : State} {id : Nat} : (s.pipeBoundCheck id).ok = true ↔ s.PipeBound id := by
  simp only [State.pipeBoundCheck, boundCheck_ok, Bool.and_eq_true, Bool.or_eq_true, decide_eq_true_eq, Bool.not_eq_true',
    ← Bool.not_eq_true, State.notchRuns_iff, State.PipeBound, ← imp_iff_not_or, ← or_iff_not_imp_left, ne_eq, and_assoc]

/-- Settles O21: binding is the first check to fail once the operands and the bounds hold. -/
theorem unboundRuns : Obligations.UnboundRuns := by
  intro s id x
  refine ⟨fun hid hb hfin => ?_, fun hbuf => ⟨fun hid hb => ?_, fun hid hb => ?_, fun hid => ?_⟩, fun hops hb => ?_⟩
  · refine raises_of_firstFail .unbound ?_
    rw [commandChecks, firstFail_cons_ok _ ((idCheck_ok _ _).mpr hid), firstFail_cons_ok _ hfin]
    exact firstFail_unbound hb
  · have hrun {i : Instr} {e : Nat} {ops rest : List Check} (hi : commandChecks i s = s.filterChecks id e ops ++ rest)
        (he : e ≤ s.cfg.maxBlock) (hops : ∀ c ∈ ops, c.ok = true) : s.Raises i 6 (BitVec.ofNat 64 id) := by
      refine raises_of_firstFail .unbound ?_
      rw [hi, firstFail_filterChecks hid hbuf.1 hops, firstFail_fits (hbuf.fits he)]
      exact firstFail_unbound hb
    exact ⟨hrun (List.append_nil _).symm hbuf.1 nofun,
      fun h2 => ⟨hrun rfl hbuf.1 (ratioChecks_ok h2), hrun (List.append_nil _).symm (State.extentUp_le hbuf.1) (ratioChecks_ok h2)⟩,
      fun h2 h3 => hrun (List.append_nil _).symm (State.extentUp_le hbuf.1)
        (List.forall_mem_cons.mpr ⟨State.ratioCheck_ok.mpr h2, ratioChecks_ok h3⟩)⟩
  · have hrun {i : Instr} {e : Nat} (hi : commandChecks i s = s.halfChecks id e) (he : e ≤ s.cfg.maxBlock) :
        s.Raises i 6 (BitVec.ofNat 64 id) := by
      refine raises_of_firstFail .unbound ?_
      rw [hi, firstFail_halfChecks hid hbuf.1, firstFail_fits (hbuf.fits he)]
      exact firstFail_unbound hb
    exact ⟨hrun rfl hbuf.1, hrun rfl (State.extentUp_le hbuf.1)⟩
  · have hrun {i : Instr} {e : Nat} {b : Bool} {rest : List Check}
        (hi : commandChecks i s = s.bankBufChecks id e ++ (boundCheck b id :: rest)) (he : e ≤ s.cfg.maxBlock) (hb : b = false) :
        s.Raises i 6 (BitVec.ofNat 64 id) := by
      refine raises_of_firstFail .unbound ?_
      rw [hi, firstFail_bankBufChecks hid hbuf.1, firstFail_fits (hbuf.fits he)]
      exact firstFail_unbound hb
    refine ⟨hrun (List.append_assoc ..) hbuf.1, fun h => ⟨hrun (List.append_assoc ..) hbuf.1 h,
      hrun (List.append_assoc ..) (State.extentUp_le hbuf.1) h⟩, hrun rfl (Nat.le_refl _), hrun rfl hbuf.1, fun h hlevel => ?_,
      fun h h0 => ?_⟩
    · exact hrun (b := decide (s.cr.nbLevel = 0) || (s.bank id).nb.valid) rfl hbuf.1 (Bool.or_eq_false_iff.mpr ⟨decide_eq_false hlevel, h⟩)
    · refine raises_of_firstFail .unbound ?_
      rw [commandChecks, firstFail_cons_ok _ ((idCheck_ok _ _).mpr hid), firstFail_cons_ok _ (s.sizeCheck_ok.mpr hbuf.1),
        firstFail_fits (hbuf.fits (Nat.min_le_right ..)), firstFail_cons_ok _ (decide_eq_true h0)]
      exact firstFail_unbound h
  · refine raises_of_firstFail .unbound ?_
    rw [firstFail_pipeChecks_of_operands hops]
    exact firstFail_cons_fails _ (Bool.not_eq_true _ ▸ fun h => hb (State.pipeBoundCheck_ok.mp h))

/-! ### The Filter Engine -/

/-- Settles O22: operands come before the bounds, the table after the binding, the phase and the variant last. -/
theorem filterStateErrors : Obligations.FilterStateErrors := by
  intro s id l hid
  have hidOk := (idCheck_ok id s.nfilt).mpr hid
  have hops {i : Instr} {e : Nat} {ops rest : List Check} (hi : commandChecks i s = s.filterChecks id e ops ++ rest)
      (hn : s.opN ≤ s.cfg.maxBlock) (hops : firstFail ops = some (.param, 0)) : s.Raises i 5 0 :=
    raises_of_firstFail .param (by rw [hi]; exact firstFail_filterChecks_operands hid hn hops)
  have hratio {r : Nat} (rest : List Check) (h : ¬(1 ≤ r ∧ r ≤ s.cfg.maxTaps)) :
      firstFail (s.ratioCheck r :: rest) = some (.param, 0) :=
    firstFail_cons_fails _ (State.ratioCheck_fails h)
  refine ⟨fun hfin => ?_, fun h => ?_, fun hslot hn => ⟨fun htable => ?_, fun t htable hlen => ?_⟩, fun hn => ⟨fun h2 => ⟨?_, ?_⟩, fun h => ?_⟩,
    fun hb hun => ⟨fun hbuf => ?_, fun hfin => ?_⟩, fun hb hres => ⟨fun hbuf h2 hphase => ?_, fun hfin hv => ?_⟩⟩
  · exact raises_of_firstFail .param ((firstFail_cons_ok _ hidOk).trans (firstFail_cons_fails _ hfin))
  · refine raises_of_firstFail .param ((firstFail_cons_ok _ hidOk).trans ?_)
    by_cases hslot : s.opA < s.ntab
    · rw [firstFail_cons_ok _ (decide_eq_true hslot)]
      exact firstFail_cons_fails _ (decide_eq_false (by omega))
    · exact firstFail_cons_fails _ (decide_eq_false hslot)
  · refine raises_of_firstFail .table ((firstFail_cons_ok _ hidOk).trans ?_)
    rw [firstFail_cons_ok _ (decide_eq_true hslot), firstFail_cons_ok _ (decide_eq_true hn)]
    exact firstFail_cons_fails _ (State.slotCheck_fails htable)
  · refine raises_of_firstFail .param ((firstFail_cons_ok _ hidOk).trans ?_)
    rw [firstFail_cons_ok _ (decide_eq_true hslot), firstFail_cons_ok _ (decide_eq_true hn),
      firstFail_cons_ok _ (by rw [State.slotCheck, htable]; rfl)]
    exact firstFail_cons_fails _ (by rw [htable]; exact decide_eq_false hlen)
  · exact hops rfl hn (hratio _ h2)
  · exact hops (List.append_nil _).symm hn (hratio _ h2)
  · refine hops (List.append_nil _).symm hn ?_
    by_cases h2 : 1 ≤ s.op2 ∧ s.op2 ≤ s.cfg.maxTaps
    · exact (firstFail_cons_ok _ (State.ratioCheck_ok.mpr h2)).trans (hratio _ (h.resolve_left (not_not_intro h2)))
    · exact hratio _ h2
  · have hrun {i : Instr} {e : Nat} {ops rest : List Check} (hi : commandChecks i s = s.filterChecks id e ops ++ rest)
        (he : e ≤ s.cfg.maxBlock) (hops : ∀ c ∈ ops, c.ok = true) : s.Raises i 10 (BitVec.ofNat 64 (s.filter id).tab) := by
      refine raises_of_firstFail .table ?_
      rw [hi, firstFail_filterChecks hid hbuf.1 hops, firstFail_fits (hbuf.fits he), firstFail_bound hb]
      exact firstFail_cons_fails _ (State.tableCheck_fails hun)
    exact ⟨hrun (List.append_nil _).symm hbuf.1 nofun,
      fun h2 => ⟨hrun rfl hbuf.1 (ratioChecks_ok h2), hrun (List.append_nil _).symm (State.extentUp_le hbuf.1) (ratioChecks_ok h2)⟩,
      fun h2 h3 => hrun (List.append_nil _).symm (State.extentUp_le hbuf.1)
        (List.forall_mem_cons.mpr ⟨State.ratioCheck_ok.mpr h2, ratioChecks_ok h3⟩)⟩
  · refine raises_of_firstFail .table ((firstFail_cons_ok _ hidOk).trans ?_)
    rw [firstFail_cons_ok _ hfin, firstFail_bound hb]
    exact firstFail_cons_fails _ (State.tableCheck_fails hun)
  · refine raises_of_firstFail .param ?_
    rw [commandChecks, firstFail_filterChecks hid hbuf.1 (ratioChecks_ok h2), firstFail_fits (hbuf.fits (e := extentSame s.opN) hbuf.1),
      firstFail_bound hb, firstFail_cons_ok _ (State.tableCheck_ok hres)]
    exact firstFail_cons_fails _ (decide_eq_false (Nat.not_lt.mpr hphase))
  · refine raises_of_firstFail .param ((firstFail_cons_ok _ hidOk).trans ?_)
    rw [firstFail_cons_ok _ hfin, firstFail_bound hb, firstFail_cons_ok _ (State.tableCheck_ok hres)]
    exact firstFail_cons_fails _ (decide_eq_false (by rw [hv]; decide))

/-! ### The tables of a bank's stages -/

section
variable {s : State} {rest : List Check}

theorem State.descChecks_append (s : State) (ds us : List StageDesc) : s.descChecks (ds ++ us) = s.descChecks ds ++ s.descChecks us :=
  List.filterMap_append

/-- The first descriptor that names an empty slot is reported with the slot (R224, R254). -/
theorem firstFail_descChecks {before after : List StageDesc} {r t : Nat} (hfilled : s.SlotsFilled before) (ht : s.table t = none) :
    firstFail (s.descChecks (before ++ .fir r t :: after) ++ rest) = some (.table, BitVec.ofNat 64 t) := by
  rw [State.descChecks_append, List.append_assoc, firstFail_append _ _ (State.descChecks_ok hfilled)]
  exact firstFail_cons_fails _ (State.slotCheck_fails ht)

/-- The first stage whose table does not resolve is reported with its table (R93, R228). -/
theorem firstFail_stageChecks {st : List StageInst} {t : Nat} (h : s.FirstUnresolved st t) :
    firstFail (s.stageChecks st ++ rest) = some (.table, BitVec.ofNat 64 t) := by
  obtain ⟨before, f, r, after, rfl, hready, hun, rfl⟩ := h
  have happ : s.stageChecks (before ++ .fir f r :: after) = s.stageChecks before ++ s.stageChecks (.fir f r :: after) :=
    List.filterMap_append
  rw [happ, List.append_assoc, firstFail_append _ _ hready]
  exact firstFail_cons_fails _ (State.tableCheck_fails hun)

theorem DemodState.stale_iff (d : DemodState) (c : BankRegs) : d.stale c = true ↔ d.Stale c := decide_eq_true_iff

/-- The refresh finds what it requires (R257). -/
theorem State.refreshChecks_ok {d : DemodState} {c : BankRegs} (h : s.RefreshReady d c) : ∀ k ∈ s.refreshChecks d c, k.ok = true := by
  unfold State.refreshChecks
  split
  next hs =>
    obtain ⟨hslot, hfin, htable⟩ := h.1 ((d.stale_iff c).mp hs)
    exact List.forall_mem_cons.mpr ⟨decide_eq_true hslot, List.forall_mem_cons.mpr ⟨hfin, List.forall_mem_singleton.mpr htable⟩⟩
  next hs =>
    obtain ⟨tb, htb, hlen⟩ := h.2 (mt (d.stale_iff c).mpr hs)
    refine List.forall_mem_singleton.mpr ?_
    rw [htb]
    exact decide_eq_true hlen

/-- What the refresh refuses: a table id or a frequency out of range, an empty slot, a table that changed its length (R257). -/
theorem raises_refresh {i : Instr} {d : DemodState} {c : BankRegs}
    (hi : firstFail (commandChecks i s) = firstFail (s.refreshChecks d c ++ rest)) :
    (d.Stale c → s.ntab ≤ c.rxfTab.toNat ∨ c.rxfFreq.isFinite = false → s.Raises i 5 0) ∧
      (d.Stale c → c.rxfTab.toNat < s.ntab → c.rxfFreq.isFinite = true → s.table c.rxfTab.toNat = none →
        s.Raises i 10 (BitVec.ofNat 64 c.rxfTab.toNat)) ∧
      (¬d.Stale c → (∀ b, s.table d.rxfTab = some b → b.val.length ≠ d.rxf.taps) → s.Raises i 10 (BitVec.ofNat 64 d.rxfTab)) := by
  refine ⟨fun hs h => raises_of_firstFail .param ?_, fun hs hslot hfin htable => raises_of_firstFail .table ?_,
    fun hs hlen => raises_of_firstFail .table ?_⟩
  · rw [hi, State.refreshChecks, if_pos (d.stale_iff c |>.mpr hs)]
    by_cases hslot : c.rxfTab.toNat < s.ntab
    · have hfin := h.resolve_left (Nat.not_le.mpr hslot)
      exact (firstFail_cons_ok _ (decide_eq_true hslot)).trans (firstFail_cons_fails _ hfin)
    · exact firstFail_cons_fails _ (decide_eq_false hslot)
  · rw [hi, State.refreshChecks, if_pos (d.stale_iff c |>.mpr hs)]
    refine (firstFail_cons_ok _ (decide_eq_true hslot)).trans ((firstFail_cons_ok _ hfin).trans ?_)
    exact firstFail_cons_fails _ (State.slotCheck_fails htable)
  · rw [hi, State.refreshChecks, if_neg (mt (d.stale_iff c).mp hs)]
    refine firstFail_cons_fails _ ?_
    cases htb : s.table d.rxfTab with
    | none => rfl
    | some tb => exact decide_eq_false (hlen tb htb)

end

/-- What DMINIT checks of its operands and its mode holds (R254). -/
theorem firstFail_dminit {s : State} {id : Nat} (hid : id < s.nbanks) (hrate : s.opReal.isPos = true)
    (hm : (s.bankRegs id).mode.toNat ≤ 12) (hkind : (s.requestedMode id).kind ≠ .noSemantics)
    (hcodec : (s.requestedMode id).kind = .dv → s.cfg.codec = true) :
    let dec := (s.requestedMode id).decList s.opReal
    let int := s.cfg.intList (s.requestedMode id)
    let tab := (s.bankRegs id).rxfTab.toNat
    firstFail (commandChecks (.dminit id) s) = firstFail (⟨dec.isSome, .param, 0⟩ :: ⟨int.isSome, .param, 0⟩ ::
      ⟨decide (tab < s.ntab), .param, 0⟩ :: s.slotCheck tab ::
      (s.descChecks (dec.getD [] ++ int.getD []) ++ [finiteCheck (s.bankRegs id).rxfFreq])) := by
  dsimp only
  simp only [commandChecks, List.append_assoc, List.cons_append, List.nil_append, State.descChecks_append]
  have hdv : (decide ((s.requestedMode id).kind ≠ .dv) || s.cfg.codec) = true := by
    by_cases hk : (s.requestedMode id).kind = .dv
    · rw [hcodec hk, Bool.or_true]
    · rw [decide_eq_true hk, Bool.true_or]
  rw [firstFail_cons_ok _ ((idCheck_ok _ _).mpr hid), firstFail_cons_ok _ hrate, firstFail_cons_ok _ (decide_eq_true hm),
    firstFail_cons_ok _ (decide_eq_true hkind), firstFail_cons_ok _ hdv]

/-- PIPERX whose components are in use, at a rate that is mapped, checks the tuning frequency and then its stages (R401). -/
theorem firstFail_pipeChecks_of_bound {s : State} {id hz : Nat} (hops : s.PipeOperandsOk id) (hb : s.PipeBound id)
    (hrate : s.cfg.rateHz (s.bank id).chain.rateId = some hz) :
    firstFail (commandChecks (.piperx id) s) = firstFail
      (⟨(s.bankRegs id).tune.isFinite && (s.bankRegs id).tune.abs.le ((Real64.ofNat hz).div .two), .param, 0⟩ ::
        s.pipeStageChecks id) := by
  rw [firstFail_pipeChecks_of_operands hops, firstFail_cons_ok _ (State.pipeBoundCheck_ok.mpr hb), State.pipeTuneChecks, hrate]
  exact firstFail_cons_ok _ rfl

/-- PIPERX whose registers are in range checks its stages in their order (R401 step 7). -/
theorem firstFail_pipeChecks_of_registers {s : State} {id hz : Nat} (hops : s.PipeOperandsOk id) (hb : s.PipeBound id)
    (hrate : s.cfg.rateHz (s.bank id).chain.rateId = some hz) (htune : s.TuneOk id hz) (hregs : s.AgcRegistersOk) :
    firstFail (commandChecks (.piperx id) s) = firstFail (s.stageChecks (s.bank id).chain.stages ++
      ((if (s.bank id).fractional then [stepCheck (s.bank id).fracStep] else []) ++
        (s.demodChecks (s.bank id).demod (s.bankRegs id) ++ s.stageChecks (s.bank id).demod.int))) := by
  have hagc : ∀ c ∈ s.agcChecks, c.ok = true :=
    List.forall_mem_cons.mpr ⟨hregs.1, List.forall_mem_cons.mpr ⟨hregs.2.1, List.forall_mem_singleton.mpr hregs.2.2⟩⟩
  rw [firstFail_pipeChecks_of_bound hops hb hrate, firstFail_cons_ok _ (Bool.and_eq_true_iff.mpr htune), State.pipeStageChecks,
    firstFail_append _ _ hagc]

/-- The fractional correction needs a positive step where it runs (R405). -/
theorem fractionalChecks_ok {k : Bank} (h : k.chain.achRate.eqv k.demod.inRate = true ∨ k.fracStep.isPos = true) :
    ∀ c ∈ (if k.fractional then [stepCheck k.fracStep] else []), c.ok = true := by
  split
  next hfrac =>
    rcases h with heq | hstep
    · rw [Bank.fractional, heq] at hfrac
      cases hfrac
    · exact List.forall_mem_singleton.mpr hstep
  · nofun

/-- Settles O23: the tables are checked in the order of the stages, after the registers. -/
theorem bankTableErrors : Obligations.BankTableErrors := by
  intro s id t w hid
  refine ⟨fun hz before r after hrate hcascade hfilled ht => ?_, fun hrate hm hkind hcodec => ?_, fun hbuf => ⟨fun hv hun => ?_,
    fun hv hun => ?_, fun hv hkind => ?_⟩, fun hz hops hb hrate => ⟨fun h => ?_, fun htune hregs => ⟨fun hun => ?_, fun hready =>
      ⟨fun heq hstep => ?_, fun hstep hkind => ?_⟩⟩⟩⟩
  · have hsel : s.selected w = some (hz, before ++ .fir r t :: after) := by rw [State.selected, hrate, hcascade]
    refine raises_of_firstFail .table ?_
    rw [commandChecks, State.selectedStages, hsel]
    refine (firstFail_cons_ok _ ((idCheck_ok _ _).mpr hid)).trans ((firstFail_cons_ok _ rfl).trans ?_)
    exact (congrArg firstFail (List.append_nil _).symm).trans (firstFail_descChecks hfilled ht)
  · have hdminit := firstFail_dminit hid hrate hm hkind hcodec
    dsimp only at hdminit
    refine ⟨fun h => raises_of_firstFail .param (hdminit.trans ?_), fun ds us hds hus htab => ?_⟩
    · by_cases hdec : ((s.requestedMode id).decList s.opReal).isSome = true
      · refine (firstFail_cons_ok _ hdec).trans ?_
        by_cases hint : (s.cfg.intList (s.requestedMode id)).isSome = true
        · refine (firstFail_cons_ok _ hint).trans (firstFail_cons_fails _ (decide_eq_false ?_))
          rcases h with h | h | h
          · exact absurd hdec (by rw [State.requestedMode, h]; decide)
          · exact absurd hint (by rw [State.requestedMode, h]; decide)
          · exact Nat.not_lt.mpr h
        · exact firstFail_cons_fails _ (Bool.not_eq_true _ ▸ hint)
      · exact firstFail_cons_fails _ (Bool.not_eq_true _ ▸ hdec)
    · change (s.requestedMode id).decList s.opReal = some ds at hds
      change s.cfg.intList (s.requestedMode id) = some us at hus
      rw [hds, hus, firstFail_cons_ok _ rfl, firstFail_cons_ok _ rfl, firstFail_cons_ok _ (decide_eq_true htab)] at hdminit
      refine ⟨fun htable => ?_, fun htable => ⟨fun before r after happ hfilled ht => ?_, fun hfilled hfin => ?_⟩⟩
      · exact raises_of_firstFail .table (hdminit.trans (firstFail_cons_fails _ (State.slotCheck_fails htable)))
      · refine raises_of_firstFail .table (hdminit.trans ((firstFail_cons_ok _ htable).trans ?_))
        simp only [Option.getD_some]
        rw [happ]
        exact firstFail_descChecks hfilled ht
      · refine raises_of_firstFail .param (hdminit.trans ((firstFail_cons_ok _ htable).trans ?_))
        exact (firstFail_append _ _ (State.descChecks_ok hfilled)).trans (firstFail_cons_fails _ hfin)
  · refine raises_of_firstFail .table ?_
    rw [commandChecks, List.append_assoc, firstFail_bankBufChecks hid hbuf.1, firstFail_fits (hbuf.fits (e := extentSame s.opN) hbuf.1)]
    refine (firstFail_bound hv).trans ?_
    exact (congrArg firstFail (List.append_nil _).symm).trans (firstFail_stageChecks hun)
  · refine raises_of_firstFail .table ?_
    rw [commandChecks, List.append_assoc, firstFail_bankBufChecks hid hbuf.1, firstFail_fits (hbuf.fits (State.extentUp_le hbuf.1))]
    refine (firstFail_bound hv).trans ?_
    exact (congrArg firstFail (List.append_nil _).symm).trans (firstFail_stageChecks hun)
  · have hdemod : firstFail (commandChecks (.demod id) s) =
        firstFail (s.refreshChecks (s.bank id).demod (s.bankRegs id) ++ s.stageChecks (s.bank id).demod.dec) := by
      rw [commandChecks, List.append_assoc, firstFail_bankBufChecks hid hbuf.1, firstFail_fits (hbuf.fits (e := extentSame s.opN) hbuf.1)]
      refine (firstFail_bound hv).trans ?_
      rw [State.demodChecks, List.append_assoc]
      exact firstFail_cons_ok _ (decide_eq_true hkind)
    refine ⟨raises_refresh hdemod, fun hready hun => raises_of_firstFail .table (hdemod.trans ?_)⟩
    rw [firstFail_append _ _ (State.refreshChecks_ok hready)]
    exact (congrArg firstFail (List.append_nil _).symm).trans (firstFail_stageChecks hun)
  · have hpipe := firstFail_pipeChecks_of_bound hops hb hrate
    refine raises_of_firstFail .param (hpipe.trans ?_)
    by_cases htune : s.TuneOk id hz
    · rw [firstFail_cons_ok _ (Bool.and_eq_true_iff.mpr htune), State.pipeStageChecks]
      exact firstFail_append_of_some _ (firstFail_agcChecks (h.resolve_left (not_not_intro htune)))
    · exact firstFail_cons_fails _ (Bool.not_eq_true _ ▸ mt Bool.and_eq_true_iff.mp htune)
  all_goals have hpipe := firstFail_pipeChecks_of_registers hops hb hrate htune hregs
  · exact raises_of_firstFail .table (hpipe.trans (firstFail_stageChecks hun))
  · rw [firstFail_append _ _ hready] at hpipe
    have hfrac : (s.bank id).fractional = true := by rw [Bank.fractional, heq]; rfl
    rw [if_pos hfrac] at hpipe
    exact raises_of_firstFail .param (hpipe.trans (firstFail_cons_fails _ hstep))
  · rw [firstFail_append _ _ hready, firstFail_append _ _ (fractionalChecks_ok hstep), State.demodChecks, List.append_assoc,
      List.append_assoc] at hpipe
    have hrefresh : firstFail (commandChecks (.piperx id) s) = firstFail (s.refreshChecks (s.bank id).demod (s.bankRegs id) ++
        (s.stageChecks (s.bank id).demod.dec ++ s.stageChecks (s.bank id).demod.int)) :=
      hpipe.trans (firstFail_cons_ok _ (decide_eq_true hkind))
    refine ⟨raises_refresh hrefresh, fun hrefreshed => ?_⟩
    have hstages := hrefresh.trans (firstFail_append _ _ (State.refreshChecks_ok hrefreshed))
    refine ⟨fun hun => raises_of_firstFail .table (hstages.trans (firstFail_stageChecks hun)), fun hdec hun => ?_⟩
    refine raises_of_firstFail .table (hstages.trans ((firstFail_append _ _ hdec).trans ?_))
    exact (congrArg firstFail (List.append_nil _).symm).trans (firstFail_stageChecks hun)

end Sys2Proof.Machine
end

section
/-! PROOFS. The allocation oracle (spec/60_exceptions.md R446, R450; log 12, log 15): which commands consult it, and what its failure
leaves. -/

namespace Sys2Proof.Machine

/-! ### Whether an interpolating stage outgrows its scratch buffer (R175, R270) -/

/-- FINTERP makes `ratio` outputs of each input it consumes (R172). -/
theorem firInterp_length (tb : List Real64) (ratio room : Nat) (f : FilterInst) (x : List Cplx) :
    (firInterp tb ratio room f x).out.length = (firInterp tb ratio room f x).eaten * ratio := by
  induction x generalizing room f with
  | nil => exact (Nat.zero_mul _).symm
  | cons z x ih =>
    rw [firInterp]
    split
    · exact (Nat.zero_mul _).symm
    · simp only [FirLoop.after, List.length_append, FilterInst.polyphase, List.length_map, List.length_range, ih, Nat.succ_mul]
      omega

/-- An interpolating stage makes its ratio of outputs of each input that `MAXBLOCK` admits (R172, R208, R448). -/
theorem State.intStage_count (s : State) (p : Place) (k : StageInst) (x : List Cplx) :
    (s.intStage p k x).out.length = s.eaten k x.length * k.ratio := by
  cases k with
  | hb i =>
    simp only [State.intStage, hbStage, hbRun_out, outputAs_length, hbInt2_length, hbInt2_eaten, State.eaten, StageInst.ratio]
    omega
  | fir f r =>
    simp only [State.intStage, firStage, firRun_out, outputAs_length, firInterp_length, State.eaten, StageInst.ratio]
    rcases Nat.eq_zero_or_pos r with rfl | hr
    · rw [Nat.mul_zero, Nat.mul_zero]
    · rw [(firInterp_eaten _ _ hr _ _).1, outputAs_length]

/-- A cascade grows a scratch buffer exactly when the counts of its stages say so (R175). -/
theorem State.stagesGrow_eq_outgrown (s : State) (p : Place) (st : List StageInst) (x : List Cplx) :
    s.stagesGrow p st x = s.outgrown st x.length := by
  induction st generalizing x with
  | nil => rfl
  | cons k rest ih =>
    have hrest := (ih (s.intStage p k x).out).trans (congrArg (s.outgrown rest) (s.intStage_count p k x))
    cases k with
    | hb i => exact congrArg (false || ·) hrest
    | fir f r => exact congrArg (f.growsFor x.length || ·) hrest

/-- Half-bands have no scratch buffer (R205). -/
theorem State.outgrown_of_hb (s : State) {st : List StageInst} (h : ∀ k ∈ st, ∃ i, k = .hb i) (n : Nat) : s.outgrown st n = false := by
  induction st generalizing n with
  | nil => rfl
  | cons k rest ih =>
    obtain ⟨i, rfl⟩ := h k List.mem_cons_self
    rw [State.outgrown, ih fun k hk => h k (List.mem_cons_of_mem _ hk)]
    rfl

/-! ### What a command takes of the oracle's answers -/

/-- A command that completes takes an answer exactly when it needs one (R446). -/
theorem exec_takes_answer {i : Instr} {s t : State} {rest : List Bool} (h : exec i { s with allocs := true :: rest } = .next t)
    (hcode : t.cr.status.code = 0) : (∀ c ∈ commandChecks i s, c.ok = true) ∧
      t = { s.affected i.id (commandEffect i s) with allocs := if commandNeeds i s then rest else true :: rest } := by
  cases exec_endsAs h with
  | refused e w hf =>
    have hrange := (Err.code_range e).1
    rw [show e.code = 0 from hcode] at hrange
    exact absurd hrange (by decide)
  | starved _ _ hno => cases hno
  | completed hc =>
    rw [commandChecks_allocs] at hc
    refine ⟨hc, ?_⟩
    rw [State.done, commandEffect_allocs, commandNeeds_allocs, State.affected_allocs]
    rfl

theorem State.ne_cons_self (rest : List Bool) : true :: rest ≠ rest := fun h => by simpa using congrArg List.length h

/-- Settles O25: a command that needs an answer starves on failure, any other does not read the answers. -/
theorem allocationFails : Obligations.AllocationFails := by
  refine ⟨fun s v id tb hno hid htb hlen hslot hpos hmax => ?_, fun i s t rest h hcode => ?_⟩
  · refine ⟨s.consulted.raise .alloc 0, exec_of_starved (i := .finit v id) ?_ rfl hno, rfl⟩
    simp only [commandChecks, List.forall_mem_cons, idCheck_ok, decide_eq_true_eq, State.slotCheck, htb, Option.isSome_some,
      Option.any_some]
    exact ⟨hid, hslot, ⟨hpos, hmax⟩, trivial, hlen, nofun⟩
  · obtain ⟨hc, rfl⟩ := exec_takes_answer h hcode
    have hiff : (if commandNeeds i s then rest else true :: rest) = rest ↔ commandNeeds i s = true := by
      cases commandNeeds i s
      · exact iff_of_false (State.ne_cons_self rest) (by decide)
      · exact iff_of_true rfl rfl
    have hc' : ∀ c ∈ commandChecks i { s with allocs := false :: rest }, c.ok = true := by
      rw [commandChecks_allocs]
      exact hc
    refine ⟨fun htook => ?_, fun hkept => ?_, ?_⟩
    · have hneeds := (commandNeeds_allocs i s (false :: rest)).trans (hiff.mp htook)
      exact ⟨_, exec_of_starved hc' hneeds rfl, rfl⟩
    · have hneeds : commandNeeds i s = false := Bool.not_eq_true _ ▸ mt hiff.mpr hkept
      rw [hneeds]
      refine ⟨rfl, (exec_of_checks hc' ?_).trans ?_⟩
      · rw [commandNeeds_allocs, hneeds]
        nofun
      · rw [State.done, commandEffect_allocs, commandNeeds_allocs, hneeds, State.affected_allocs]
        rfl
    · have hoff (hneeds : commandNeeds i s = false) : (if commandNeeds i s then rest else true :: rest) ≠ rest :=
        mt hiff.mp (by rw [hneeds]; decide)
      cases i with
      | finit | ftune | chsel | dminit | agcinit | nbinit | aninit => exact hiff.mpr rfl
      | finterp id | fresamp id => exact hiff.trans decide_eq_true_iff
      | demod id => exact hiff.trans (DemodState.stale_iff ..)
      | restore id =>
        refine hiff.trans ?_
        rw [commandNeeds, State.stagesGrow_eq_outgrown, State.input_length]
      | piperx id =>
        refine ⟨fun hs => hiff.mpr (Bool.or_eq_true_iff.mpr (.inl ((DemodState.stale_iff ..).mpr hs))), fun hs hhb => hoff ?_⟩
        refine Bool.or_eq_false_iff.mpr ⟨Bool.not_eq_true _ ▸ mt (DemodState.stale_iff ..).mp hs, ?_⟩
        rw [State.stagesGrow_eq_outgrown]
        exact s.outgrown_of_hb hhb _
      | _ => exact hoff rfl

end Sys2Proof.Machine
end

section
/-! PROOFS. The control registers by their numbers (spec/10_state.md R40 to R58, U12, U13): where a number belongs, what it reads, and
which field a write sets. -/

namespace Sys2Proof.Machine

/-! ### Where a number belongs (R58) -/

section
variable {nbanks n : Nat}

/-- The global registers stand below the banks' and at `300 .. 30F`. -/
theorem crHome_eq_global (h32 : nbanks ≤ 32) (h : n < 0x100 ∨ 0x100 + 8 * nbanks ≤ n ∧ n < 0x310 ∨ 0x310 + nbanks ≤ n) :
    crHome nbanks n = .global := by
  rw [crHome, if_neg (by omega), if_neg (by omega)]

theorem crHome_eq_achRate (h32 : nbanks ≤ 32) {b : Nat} (hb : b < nbanks) : crHome nbanks (0x310 + b) = .achRate b := by
  rw [crHome, if_neg (by omega), if_pos (by omega), Nat.add_sub_cancel_left]

end

/-! ### Reading and writing a number (R40) -/

section
variable {s : State} {n b k : Nat} (w : Word64)

theorem State.readCR_of_global (h : crHome s.nbanks n = .global) : s.readCR n = s.cr.read n := by
  rw [State.readCR, h]

theorem State.writeCR_of_global (h : crHome s.nbanks n = .global) : s.writeCR n w = { s with cr := s.cr.write n w } := by
  rw [State.writeCR, h]

theorem State.readCR_bankReg (hb : b < s.nbanks) (hk : k < 8) : s.readCR (0x100 + 8 * b + k) = (s.bankRegs b).read k := by
  rw [State.readCR, crHome_bankReg _ _ _ hb hk]

theorem State.writeCR_bankReg (hb : b < s.nbanks) (hk : k < 8) : s.writeCR (0x100 + 8 * b + k) w =
    { s with chans := s.chans.set b { s.chan b with cr := (s.bankRegs b).write k w } } := by
  rw [State.writeCR, crHome_bankReg _ _ _ hb hk]

/-- A per-bank register reads back what its write leaves in it. -/
theorem State.readCR_writeCR_bankReg (hb : b < s.nbanks) (hk : k < 8) :
    (s.writeCR (0x100 + 8 * b + k) w).readCR (0x100 + 8 * b + k) = ((s.bankRegs b).write k w).read k := by
  rw [State.readCR_bankReg (by rwa [State.writeCR_nbanks]) hk, State.bankRegs_writeCR w (crHome_bankReg _ _ _ hb hk), if_pos rfl]

/-- A global register reads back what its write leaves in it. -/
theorem State.readCR_writeCR_global (h : crHome s.nbanks n = .global) : (s.writeCR n w).readCR n = (s.cr.write n w).read n := by
  rw [State.readCR_of_global (by rwa [State.writeCR_nbanks]), State.writeCR_of_global w h]

/-- Setting a bank's registers to what they are changes nothing. -/
theorem State.set_chan_self (s : State) (b : Nat) : { s with chans := s.chans.set b (s.chan b) } = s := by
  have hset : s.chans.set b (s.chan b) = s.chans := by
    by_cases hb : b < s.chans.length
    · rw [State.chan, ← List.getElem_eq_getD (h := hb)]
      exact List.set_getElem_self hb
    · exact List.set_eq_of_length_le (Nat.le_of_not_lt hb)
  rw [hset]

end

/-! ### Numbers that name no register -/

theorem CtrlRegs.write_of_unlisted (c : CtrlRegs) {n : Nat} (w : Word64) (h : n = 0 ∨ 0x10 ≤ n) : c.write n w = c := by
  unfold CtrlRegs.write
  split <;> try rfl
  all_goals omega

theorem CtrlRegs.read_of_unlisted (c : CtrlRegs) {n : Nat} (h : 0x10 ≤ n ∧ n < 0x300 ∨ 0x308 ≤ n) : c.read n = 0 := by
  unfold CtrlRegs.read
  split <;> try rfl
  all_goals omega

theorem BankRegs.write_of_unlisted (r : BankRegs) {k : Nat} (w : Word64) (h : 5 ≤ k) : r.write k w = r := by
  unfold BankRegs.write
  split <;> try rfl
  all_goals omega

theorem BankRegs.read_of_unlisted (r : BankRegs) {k : Nat} (h : 5 ≤ k) : r.read k = 0 := by
  unfold BankRegs.read
  split <;> try rfl
  all_goals omega

section
variable {s : State} {n : Nat} (h32 : s.nbanks ≤ 32)
include h32

/-- A write to `STATUS`, to telemetry or to a number that names no register changes nothing (R40). -/
theorem State.writeCR_of_unlisted (w : Word64) (h : n = 0 ∨ 0x10 ≤ n ∧ n < 0x100 ∨ 0x100 + 8 * s.nbanks ≤ n ∨
    ∃ b < s.nbanks, ∃ k, 5 ≤ k ∧ k < 8 ∧ n = 0x100 + 8 * b + k) : s.writeCR n w = s := by
  have hglobal (hn : crHome s.nbanks n = .global) (hu : n = 0 ∨ 0x10 ≤ n) : s.writeCR n w = s := by
    rw [State.writeCR_of_global w hn, CtrlRegs.write_of_unlisted _ w hu]
  rcases h with h | h | h | ⟨b, hb, k, h5, hk, rfl⟩
  · exact hglobal (crHome_eq_global h32 (by omega)) (.inl h)
  · exact hglobal (crHome_eq_global h32 (by omega)) (.inr h.1)
  · by_cases hach : 0x310 ≤ n ∧ n < 0x310 + s.nbanks
    · obtain ⟨b, rfl⟩ := Nat.exists_eq_add_of_le hach.1
      rw [State.writeCR, crHome_eq_achRate h32 (by omega)]
    · exact hglobal (crHome_eq_global h32 (by omega)) (by omega)
  · rw [State.writeCR_bankReg w hb hk, BankRegs.write_of_unlisted _ w h5]
    exact s.set_chan_self b

/-- A number that names no register reads 0 (R40). -/
theorem State.readCR_of_unlisted (h : 0x10 ≤ n ∧ n < 0x100 ∨ 0x100 + 8 * s.nbanks ≤ n ∧ n < 0x300 ∨ 0x308 ≤ n ∧ n < 0x310 ∨
    0x310 + s.nbanks ≤ n ∨ ∃ b < s.nbanks, ∃ k, 5 ≤ k ∧ k < 8 ∧ n = 0x100 + 8 * b + k) : s.readCR n = 0 := by
  have hglobal (hn : n < 0x100 ∨ 0x100 + 8 * s.nbanks ≤ n ∧ n < 0x310 ∨ 0x310 + s.nbanks ≤ n)
      (hu : 0x10 ≤ n ∧ n < 0x300 ∨ 0x308 ≤ n) : s.readCR n = 0 := by
    rw [State.readCR_of_global (crHome_eq_global h32 hn), CtrlRegs.read_of_unlisted _ hu]
  rcases h with h | h | h | h | ⟨b, hb, k, h5, hk, rfl⟩
  · exact hglobal (by omega) (by omega)
  · exact hglobal (by omega) (by omega)
  · exact hglobal (by omega) (by omega)
  · exact hglobal (by omega) (by omega)
  · rw [State.readCR_bankReg hb hk, BankRegs.read_of_unlisted _ h5]

end

/-! ### The bits a register has -/

/-- A register of `n` bits reads back the low `n` bits written. -/
theorem setWidth_setWidth_eq_and (w : Word64) {n : Nat} (h : n ≤ 64) :
    (w.setWidth n).setWidth 64 = w &&& BitVec.ofNat 64 (2 ^ n - 1) := by
  have hpow : 2 ^ n ≤ 2 ^ 64 := Nat.pow_le_pow_right (by decide) h
  have hpos : 0 < 2 ^ n := Nat.two_pow_pos n
  refine BitVec.eq_of_toNat_eq ?_
  rw [BitVec.toNat_setWidth, BitVec.toNat_setWidth, BitVec.toNat_and, BitVec.toNat_ofNat, Nat.mod_eq_of_lt (a := 2 ^ n - 1) (by omega),
    Nat.and_two_pow_sub_one_eq_mod, Nat.mod_eq_of_lt ((Nat.mod_lt _ hpos).trans_le hpow)]

theorem ofNat_bit (b : Bool) : BitVec.ofNat 64 (bit b) = if b then 1 else 0 := by cases b <;> rfl

theorem bit_testBit (n i : Nat) : bit (n.testBit i) = n / 2 ^ i % 2 := by
  rw [Nat.testBit_eq_decide_div_mod_eq, bit]
  split
  next h => exact (of_decide_eq_true h).symm
  next h =>
    have := of_decide_eq_false (Bool.not_eq_true _ ▸ h)
    omega

/-- `NOTCH_EN` reads back bit 0 (R45). -/
theorem ofNat_bit_getLsbD (w : Word64) : BitVec.ofNat 64 (bit (w.getLsbD 0)) = w &&& 1 := by
  refine BitVec.eq_of_toNat_eq ?_
  rw [BitVec.getLsbD, bit_testBit, BitVec.toNat_and, BitVec.toNat_ofNat, show (1 : Word64).toNat = 2 ^ 1 - 1 from rfl,
    Nat.and_two_pow_sub_one_eq_mod]
  omega

/-- `KEY` reads back bits 0 and 1 (R52). -/
theorem ofNat_keyBits_getLsbD (w : Word64) : BitVec.ofNat 64 (bit (w.getLsbD 0) + 2 * bit (w.getLsbD 1)) = w &&& 3 := by
  refine BitVec.eq_of_toNat_eq ?_
  rw [BitVec.getLsbD, BitVec.getLsbD, bit_testBit, bit_testBit, BitVec.toNat_and, BitVec.toNat_ofNat,
    show (3 : Word64).toNat = 2 ^ 2 - 1 from rfl, Nat.and_two_pow_sub_one_eq_mod]
  omega

/-- Settles O8: a number is a global register, a bank's, or an achieved rate, and each has its field. -/
theorem controlRegisterAccess : Obligations.ControlRegisterAccess := by
  intro s w h32
  have hread {n : Nat} (h : n < 0x100 ∨ 0x300 ≤ n ∧ n < 0x310) : s.readCR n = s.cr.read n :=
    State.readCR_of_global (crHome_eq_global h32 (by omega))
  have hwrite {n : Nat} (h : n < 0x100) : s.writeCR n w = { s with cr := s.cr.write n w } :=
    State.writeCR_of_global w (crHome_eq_global h32 (.inl h))
  have hback {n : Nat} (h : n < 0x100) : (s.writeCR n w).readCR n = (s.cr.write n w).read n :=
    State.readCR_writeCR_global w (crHome_eq_global h32 (.inl h))
  refine ⟨?_, ?_, ?_, fun b hb => ?_, fun n mask hn => ?_, fun n hn => ?_, fun b hb => ?_, fun n m hne =>
    State.readCR_writeCR_ne s w hne.symm, fun n => ⟨State.writeCR_of_unlisted h32 w, State.readCR_of_unlisted h32⟩⟩
  · have hkey : BitVec.ofNat 64 (bit s.cr.keyDown + 2 * bit s.cr.keyTone) =
        (if s.cr.keyDown then 1 else 0) + (if s.cr.keyTone then 2 else 0) := by
      cases s.cr.keyDown <;> cases s.cr.keyTone <;> rfl
    exact ⟨hread (by omega), hread (by omega), hread (by omega), hread (by omega), (hread (by omega)).trans (ofNat_bit _),
      hread (by omega), hread (by omega), hread (by omega), hread (by omega), hread (by omega), hread (by omega), hread (by omega),
      hread (by omega), (hread (by omega)).trans hkey, hread (by omega), hread (by omega)⟩
  · refine ⟨hread (by omega), hread (by omega), hread (by omega), hread (by omega), hread (by omega), hread (by omega),
      hread (by omega), hread (by omega), fun b hb => ?_⟩
    rw [State.readCR, crHome_eq_achRate h32 hb]
  · exact ⟨hwrite (by omega), hwrite (by omega), hwrite (by omega), hwrite (by omega), hwrite (by omega), hwrite (by omega),
      hwrite (by omega), hwrite (by omega), hwrite (by omega), hwrite (by omega), hwrite (by omega), hwrite (by omega),
      hwrite (by omega), hwrite (by omega), hwrite (by omega)⟩
  · have hget {k : Nat} (hk : k < 8) := State.readCR_bankReg (s := s) hb hk
    have hset {k : Nat} (hk : k < 8) := State.writeCR_bankReg (s := s) w hb hk
    exact ⟨⟨hget (k := 0) (by omega), hget (by omega), hget (by omega), hget (by omega), hget (by omega)⟩, hset (by omega), hset (by omega),
      hset (by omega), hset (by omega), hset (by omega)⟩
  · fin_cases hn
    · exact (hback (by omega)).trans (setWidth_setWidth_eq_and w (by omega : 8 ≤ 64))
    · exact (hback (by omega)).trans (setWidth_setWidth_eq_and w (by omega : 8 ≤ 64))
    · exact (hback (by omega)).trans (setWidth_setWidth_eq_and w (by omega : 2 ≤ 64))
    · exact (hback (by omega)).trans (ofNat_bit_getLsbD w)
    · exact (hback (by omega)).trans (ofNat_keyBits_getLsbD w)
  · fin_cases hn <;> exact hback (by omega)
  · have hgot {k : Nat} (hk : k < 8) := State.readCR_writeCR_bankReg (s := s) w hb hk
    refine ⟨?_, ?_, fun k hk => ?_⟩
    · exact (hgot (k := 0) (by omega)).trans (setWidth_setWidth_eq_and w (by omega : 8 ≤ 64))
    · rw [show 0x102 + 8 * b = 0x100 + 8 * b + 2 by omega]
      exact (hgot (by omega)).trans (setWidth_setWidth_eq_and w (by omega : 16 ≤ 64))
    · fin_cases hk <;> exact hgot (by omega)

end Sys2Proof.Machine
end

section
/-! PROOFS. What FAPPLY, FDECIM, FINTERP and FRESAMP complete with (spec/40_filter_engine.md R168 to R175, R448). -/

namespace Sys2Proof.Machine

/-! ### The state a command that completes leaves -/

section
variable {i : Instr} {s : State}

/-- A command that leaves the control registers alone completes with the number of its outputs. -/
theorem State.completed_done {put : Put} {base : Nat} {out : List Cplx} {cut : Bool}
    (h : commandEffect i s = .buffer put s.cr base out (bit cut)) :
    s.Completed (s.done i) (BitVec.ofNat 64 out.length) 0 cut := by
  have hcr : (s.done i).cr = (s.affected i.id (commandEffect i s)).cr := rfl
  have hr : (s.done i).r0 = (commandEffect i s).r0 ∧ (s.done i).r1 = (commandEffect i s).r1 := ⟨rfl, rfl⟩
  rw [h] at hr hcr
  rw [State.affected_cr] at hcr
  refine ⟨hr.1, hr.2, ?_⟩
  rw [hcr]
  cases cut <;> simp [Effect.buffer, Status.ofTrunc, bit]

/-- The samples of an effect stand from its base on. -/
theorem State.read_done {k : Nat} {z : Cplx} (hwf : s.sm.wf = true) (hz : (commandEffect i s).out[k]? = some z) :
    (s.done i).sm.read ((commandEffect i s).base + k) = z := by
  have hk : k < (commandEffect i s).out.length := (List.getElem?_eq_some_iff.mp hz).1
  rw [State.done_sm, Mem.read_writeBlock _ _ _ _ hwf, if_pos (by omega), Nat.add_sub_cancel_left, List.getD_eq_getElem?_getD, hz,
    Option.getD_some]

/-- Cells beyond the samples of an effect stay. -/
theorem State.read_done_beyond {k : Nat} (hwf : s.sm.wf = true) (hk : (commandEffect i s).out.length ≤ k) :
    (s.done i).sm.read ((commandEffect i s).base + k) = s.sm.read ((commandEffect i s).base + k) := by
  rw [State.done_sm, Mem.read_writeBlock _ _ _ _ hwf, if_neg (by omega)]

theorem State.filter_done {f : FilterInst} (hid : i.id < s.nfilt) (h : (commandEffect i s).put = .filter f) :
    (s.done i).filter i.id = f := by
  have hplaced : (s.done i).filter i.id = (s.placed i.id (commandEffect i s).put).filter i.id := rfl
  rw [hplaced, h]
  exact s.filter_setFilter_self i.id f hid

theorem State.chan_done {k : Bank} {r : Real64} (hid : i.id < s.nbanks) (h : (commandEffect i s).put = .bank k r) :
    (s.done i).chan i.id = { s.chan i.id with bank := k, achRate := r } := by
  have hplaced : (s.done i).chan i.id = (s.placed i.id (commandEffect i s).put).chan i.id := rfl
  rw [hplaced, h]
  exact State.chan_placed_bank k r hid

theorem State.bank_done {k : Bank} {r : Real64} (hid : i.id < s.nbanks) (h : (commandEffect i s).put = .bank k r) :
    (s.done i).bank i.id = k :=
  congrArg Channel.bank (State.chan_done hid h)

end

/-! ### A filtering command that completes -/

section
variable {i : Instr} {s : State} {r : Run FilterInst} (heff : commandEffect i s = s.filterEffect r)
include heff

theorem State.completed_filterEffect : s.Completed (s.done i) (BitVec.ofNat 64 r.out.length) 0 r.trunc := by
  have h := State.completed_done (i := i) heff
  rwa [emitted_length] at h

theorem State.filter_filterEffect (hid : i.id < s.nfilt) : (s.done i).filter i.id = r.commit r.bad :=
  State.filter_done hid (congrArg Effect.put heff)

/-- Where nothing a filter reads is NaN or infinite, its outputs stand from the base on, in the sample type of its variant. -/
theorem State.read_filterEffect {y : Cplx} {k : Nat} (hwf : s.sm.wf = true) (hbad : r.bad = false) (hy : r.out[k]? = some y) :
    (s.done i).sm.read (s.opA + k) = cellOf r.st.variant y := by
  have hread := State.read_done (i := i) (k := k) (z := cellOf r.st.variant y) hwf
  rw [heff] at hread
  refine hread ?_
  dsimp only [State.filterEffect, Effect.buffer]
  rw [hbad, emitted_finite, outputAs_getElem?, hy, Option.map_some]

theorem State.read_filterEffect_beyond {k : Nat} (hwf : s.sm.wf = true) (hk : r.out.length ≤ k) :
    (s.done i).sm.read (s.opA + k) = s.sm.read (s.opA + k) := by
  have hread := State.read_done_beyond (i := i) (k := k) hwf
  rw [heff] at hread
  exact hread ((emitted_length ..).trans_le hk)

end

/-- A filter's checks hold of a filter that is ready, a buffer that fits and operands in range. -/
theorem State.filterChecks_ok {s : State} {id e : Nat} {ops : List Check} (hid : id < s.nfilt) (hb : s.BufferOk e)
    (hf : s.FilterReady (s.filter id)) (hops : ∀ c ∈ ops, c.ok = true) : ∀ c ∈ s.filterChecks id e ops, c.ok = true := by
  obtain ⟨hbound, -, ht⟩ := hf
  simp only [State.filterChecks, List.cons_append, List.nil_append, List.forall_mem_cons, List.forall_mem_append, idCheck_ok,
    State.sizeCheck_ok, State.boundsCheck_ok, boundCheck_ok, State.tableCheck]
  exact ⟨hid, hb.1, hops, hb.2, hbound, ht, nofun⟩

/-! ### What a filter run leaves, whatever it read -/

section
variable (ser : Nat) (p : Place) (f : FilterInst) (x : List Cplx) (r : FirLoop) (bad : Bool)

theorem firRun_commit_cur : ((firRun ser p f x r).commit bad).cur = r.f.cur := by cases bad <;> rfl

theorem firRun_commit_phase : ((firRun ser p f x r).commit bad).phase = r.f.phase := by cases bad <;> rfl

theorem firRun_commit_scap : ((firRun ser p f x r).commit bad).scap = r.f.scap := by cases bad <;> rfl

/-- A run reads no value that is not finite when its block and its loop read none. -/
theorem firRun_bad (hx : ∀ z ∈ x, z.isFinite = true) (hr : r.bad = false) : (firRun ser p f x r).bad = false :=
  Bool.or_eq_false_iff.mpr ⟨(anyNonFinite_eq_false x).mpr hx, hr⟩

end

/-- Inputs change a filter's history and cursor only (R163). -/
theorem FilterInst.takes_frame (f : FilterInst) (x : List Cplx) :
    f.takes x = { f with hist := (f.takes x).hist, cur := (f.takes x).cur } := by
  induction x generalizing f with
  | nil => rfl
  | cons z x ih => exact ih (f.next z)

theorem FilterInst.takes_variant (f : FilterInst) (x : List Cplx) : (f.takes x).variant = f.variant := by rw [FilterInst.takes_frame]

theorem FilterInst.takes_scap (f : FilterInst) (x : List Cplx) : (f.takes x).scap = f.scap := by rw [FilterInst.takes_frame]

/-- What a filter received of a block up to an input depends on nothing later (R161). -/
theorem FilterInst.received_take (f : FilterInst) (x : List Cplx) (e q : Nat) :
    f.received (x.take e) e (q + 1) = f.received x e (q + 1) := by
  unfold FilterInst.received
  split
  · rw [List.getD_eq_getElem?_getD, List.getD_eq_getElem?_getD, List.getElem?_take_of_lt (by omega)]
  · rfl

/-- The samples a filter holds after the first `e` inputs of a block, each by its age (R31). -/
theorem FilterInst.Whole.newest_takes_take {f : FilterInst} (h : f.Whole) {x : List Cplx} {e q : Nat} (he : e ≤ x.length)
    (hq : q < f.taps) : (f.takes (x.take e)).newest (q + 1) = f.received x e (q + 1) := by
  have hnew := h.newest_takes (x.take e) hq
  rwa [List.length_take_of_le he, FilterInst.received_take] at hnew

/-! ### A filter with its scratch buffer grown (R175) -/

section
variable (f : FilterInst) (n : Nat)

theorem FilterInst.grown_scap : (f.grown n).scap = if f.scap < n then 2 * n else f.scap := by
  unfold FilterInst.grown
  split <;> rfl

theorem FilterInst.grown_branch : (f.grown n).branch = f.branch := by rw [FilterInst.grown_eq]; rfl

theorem FilterInst.grown_received : (f.grown n).received = f.received := by rw [FilterInst.grown_eq]; rfl

theorem FilterInst.grown_cur : (f.grown n).cur = f.cur := by rw [FilterInst.grown_eq]

theorem FilterInst.grown_taps : (f.grown n).taps = f.taps := by rw [FilterInst.grown_eq]

variable {f}

theorem FilterInst.Whole.grown (h : f.Whole) : (f.grown n).Whole := by rw [FilterInst.grown_eq]; exact h

theorem FilterInst.AllFinite.grown {tb : List Real64} {x : List Cplx} (h : f.AllFinite tb x) : (f.grown n).AllFinite tb x := by
  rw [FilterInst.grown_eq]
  exact h

end

/-- An output of a list made from a range. -/
theorem getElem?_map_range {α : Type} (g : Nat → α) {n k : Nat} (hk : k < n) : ((List.range n).map g)[k]? = some (g k) := by
  rw [List.getElem?_map, List.getElem?_range hk, Option.map_some]

/-! ### The commands -/

/-- Settles O29: the loop's outputs by the age of the inputs, and the filter it leaves. -/
theorem fapplyConvolves : Obligations.FapplyConvolves := by
  intro s id hid hwf _ hb hf f tb x
  have hw : f.Whole := hf.2.1.whole hf.1
  have hlen : x.length = s.opN := s.input_length f.variant
  have hout : (s.fapplyRun id).out = _ := firApply_out tb x hw
  have hst : (s.fapplyRun id).st = f.takes x := firApply_f tb f x
  obtain ⟨hcount, -, htr, -⟩ := firApply_spec tb f x
  have heff : commandEffect (.fapply id) s = s.filterEffect (s.fapplyRun id) := rfl
  have hfilter := State.filter_filterEffect heff hid
  refine ⟨_, exec_of_checks (State.filterChecks_ok hid hb hf nofun) nofun, ?_, ?_, fun hfin => ?_⟩
  · have hdone := State.completed_filterEffect heff
    rwa [show (s.fapplyRun id).out.length = s.opN from hcount.trans hlen, State.opN, BitVec.ofNat_toNat, BitVec.setWidth_eq,
      show (s.fapplyRun id).trunc = false from htr] at hdone
  · rw [← hlen, ← f.takes_cur x hw.1, ← hst]
    exact (congrArg FilterInst.cur hfilter).trans (firRun_commit_cur ..)
  · have hbad : (s.fapplyRun id).bad = false := firRun_bad _ _ _ _ _ hfin.1 (firApply_bad tb x hfin)
    rw [hbad, Run.commit_false, hst] at hfilter
    refine ⟨fun m hm => ?_, fun q hq => ?_⟩
    · refine (State.read_filterEffect heff hwf hbad ((congrArg (·[m]?) hout).trans (getElem?_map_range _ (hlen.symm ▸ hm)))).trans ?_
      rw [hst, FilterInst.takes_variant]
    · refine (congrArg (FilterInst.newest · (q + 1)) hfilter).trans ?_
      rw [hw.newest_takes x hq, hlen]

/-- Settles O30: as FAPPLY, with an output at each input that completes the ratio. -/
theorem fdecimDecimates : Obligations.FdecimDecimates := by
  intro s id hid hwf _ hb hf hr hr' hp f tb x count
  have hw : f.Whole := hf.2.1.whole hf.1
  have hlen : x.length = s.opN := s.input_length f.variant
  have hout : (s.fdecimRun id).out = _ := firDecim_out tb x hw hp
  have hst : (s.fdecimRun id).st = (f.takes x).withPhase _ := firDecim_f tb x hp
  rw [hlen] at hout hst
  have hcount : (s.fdecimRun id).out.length = count := by rw [hout, List.length_map, List.length_range]
  obtain ⟨-, -, htr, -⟩ := firDecim_spec tb s.op2 f x
  have heff : commandEffect (.fdecim id) s = s.filterEffect (s.fdecimRun id) := rfl
  have hfilter := State.filter_filterEffect heff hid
  have hchecks : ∀ c ∈ commandChecks (.fdecim id) s, c.ok = true :=
    List.forall_mem_append.mpr ⟨State.filterChecks_ok hid hb hf (ratioChecks_ok ⟨hr, hr'⟩),
      List.forall_mem_singleton.mpr (decide_eq_true hp)⟩
  refine ⟨_, exec_of_checks hchecks nofun, ?_, ?_, ?_, fun m hm => ?_, fun hfin => ?_⟩
  · have hdone := State.completed_filterEffect heff
    rwa [hcount, show (s.fdecimRun id).trunc = false from htr] at hdone
  · refine (congrArg FilterInst.phase hfilter).trans ((firRun_commit_phase ..).trans ?_)
    exact congrArg FilterInst.phase hst
  · refine (congrArg FilterInst.cur hfilter).trans ((firRun_commit_cur ..).trans ((congrArg FilterInst.cur hst).trans ?_))
    exact hlen ▸ f.takes_cur x hw.1
  · exact State.read_filterEffect_beyond heff hwf (hcount.trans_le hm)
  · have hbad : (s.fdecimRun id).bad = false := firRun_bad _ _ _ _ _ hfin.1 (firDecim_bad tb x s.op2 hfin)
    rw [hbad, Run.commit_false, hst] at hfilter
    refine ⟨fun j hj => ?_, fun q hq => ?_⟩
    · refine (State.read_filterEffect heff hwf hbad ((congrArg (·[j]?) hout).trans (getElem?_map_range _ hj))).trans ?_
      rw [hst]
      exact congrArg (cellOf · _) (f.takes_variant x)
    · exact (congrArg (FilterInst.newest · (q + 1)) hfilter).trans ((hw.newest_takes x hq).trans (by rw [hlen]))

/-- Settles O31: as FAPPLY, with `ratio` outputs of each input that `MAXBLOCK` admits. -/
theorem finterpInterpolates : Obligations.FinterpInterpolates := by
  intro s id hid hwf _ hb hf hr hr' halloc f tb x eaten
  have hw : f.Whole := hf.2.1.whole hf.1
  have hlen : x.length = s.opN := s.input_length f.variant
  obtain ⟨heaten, htr⟩ := firInterp_eaten tb x hr s.cfg.maxBlock (f.grown s.opN)
  rw [hlen] at heaten htr
  have hle : eaten ≤ x.length := (Nat.min_le_left ..).trans hlen.ge
  have hout : (s.finterpRun id).out = _ := firInterp_out tb x (hw.grown s.opN) hr s.cfg.maxBlock
  have hst : (s.finterpRun id).st = _ := firInterp_f tb x s.op2 s.cfg.maxBlock (f.grown s.opN)
  rw [heaten] at hout hst
  have hcount : (s.finterpRun id).out.length = eaten * s.op2 := by rw [hout, List.length_map, List.length_range]
  have heff : commandEffect (.finterp id) s = s.filterEffect (s.finterpRun id) := rfl
  have hfilter := State.filter_filterEffect heff hid
  refine ⟨_, exec_of_checks (State.filterChecks_ok hid hb hf (ratioChecks_ok ⟨hr, hr'⟩))
    (fun h => halloc (of_decide_eq_true h)), ?_, ?_, ?_, fun hfin => ?_⟩
  · have hdone := State.completed_filterEffect heff
    have hcut : (s.finterpRun id).trunc = decide (eaten < s.opN) :=
      htr.trans (decide_eq_decide.mpr (by omega))
    rwa [hcount, hcut] at hdone
  · refine (congrArg FilterInst.cur hfilter).trans ((firRun_commit_cur ..).trans ((congrArg FilterInst.cur hst).trans ?_))
    rw [FilterInst.takes_cur _ _ (hw.grown s.opN).1, List.length_take_of_le hle, FilterInst.grown_cur, FilterInst.grown_taps]
  · refine (congrArg FilterInst.scap hfilter).trans ((firRun_commit_scap ..).trans ((congrArg FilterInst.scap hst).trans ?_))
    rw [FilterInst.takes_scap, FilterInst.grown_scap]
  · have hbad : (s.finterpRun id).bad = false :=
      firRun_bad _ _ _ _ _ hfin.1 (firInterp_bad tb x s.op2 s.cfg.maxBlock (hfin.grown s.opN))
    rw [hbad, Run.commit_false, hst] at hfilter
    refine ⟨fun m hm k hk => ?_, fun q hq => ?_⟩
    · have hplace : m * s.op2 + k < eaten * s.op2 := by
        have := Nat.mul_le_mul_right s.op2 (Nat.succ_le_of_lt hm)
        rw [Nat.succ_mul] at this
        omega
      refine (State.read_filterEffect heff hwf hbad
        ((congrArg (·[m * s.op2 + k]?) hout).trans (getElem?_map_range _ hplace))).trans ?_
      rw [hst, FilterInst.takes_variant, FilterInst.grown_variant, FilterInst.grown_branch, Nat.mul_comm m,
        Nat.mul_add_div hr, Nat.mul_add_mod, Nat.div_eq_of_lt hk, Nat.mod_eq_of_lt hk, Nat.add_zero]
    · refine (congrArg (FilterInst.newest · (q + 1)) hfilter).trans ?_
      rw [(hw.grown s.opN).newest_takes_take hle ((f.grown_taps s.opN).symm ▸ hq), FilterInst.grown_received]

/-- Settles O32: as FINTERP, with the outputs on the grid of `interp` places per input. -/
theorem fresampResamples : Obligations.FresampResamples := by
  intro s id hid hwf _ hb hf hi hi' hd hd' halloc f tb x made
  have hw : f.Whole := hf.2.1.whole hf.1
  have hlen : x.length = s.opN := s.input_length f.variant
  set r := firResamp tb s.op2 s.op3 s.cfg.maxBlock (f.grown s.opN) x with hrun
  obtain ⟨hmade, hle⟩ := firResamp_made tb hd (interp := s.op2) s.cfg.maxBlock (f.grown s.opN) x
  obtain ⟨htr, hnext⟩ := firResamp_eaten tb x hd (interp := s.op2) s.cfg.maxBlock (f.grown s.opN)
  have hroom := (firResamp_spec tb s.op2 s.op3 s.cfg.maxBlock (f.grown s.opN) x).1
  have hout : (s.fresampRun id).out = _ := firResamp_out tb x (hw.grown s.opN) hi hd s.cfg.maxBlock
  have hst : (s.fresampRun id).st = _ := firResamp_f tb x hd (interp := s.op2) s.cfg.maxBlock (f.grown s.opN)
  rw [← hrun] at hmade hle htr hnext hroom hout hst
  rw [FilterInst.grown_phase] at hmade hnext hout hst
  have hcount : (s.fresampRun id).out.length = made r.eaten := hmade
  have heff : commandEffect (.fresamp id) s = s.filterEffect (s.fresampRun id) := rfl
  have hfilter := State.filter_filterEffect heff hid
  have hops : ∀ c ∈ [s.ratioCheck s.op2, s.ratioCheck s.op3], c.ok = true :=
    List.forall_mem_cons.mpr ⟨State.ratioCheck_ok.mpr ⟨hi, hi'⟩, ratioChecks_ok ⟨hd, hd'⟩⟩
  refine ⟨_, r.eaten, exec_of_checks (State.filterChecks_ok hid hb hf hops) (fun h => halloc (of_decide_eq_true h)),
    hlen ▸ hle, hmade.symm.trans_le hroom, fun hlt => hnext (hlen.symm ▸ hlt), ?_, ?_, ?_, ?_, fun hfin => ?_⟩
  · have hdone := State.completed_filterEffect heff
    have hcut : (s.fresampRun id).trunc = decide (r.eaten < s.opN) := hlen ▸ htr
    rwa [hcount, hcut] at hdone
  · refine (congrArg FilterInst.cur hfilter).trans ((firRun_commit_cur ..).trans ((congrArg FilterInst.cur hst).trans ?_))
    refine (FilterInst.takes_cur _ _ (hw.grown s.opN).1).trans ?_
    rw [List.length_take_of_le hle, FilterInst.grown_cur, FilterInst.grown_taps]
  · refine (congrArg FilterInst.phase hfilter).trans ((firRun_commit_phase ..).trans ?_)
    exact congrArg FilterInst.phase hst
  · refine (congrArg FilterInst.scap hfilter).trans ((firRun_commit_scap ..).trans ((congrArg FilterInst.scap hst).trans ?_))
    exact (FilterInst.takes_scap ..).trans (FilterInst.grown_scap ..)
  · have hbad : (s.fresampRun id).bad = false :=
      firRun_bad _ _ _ _ _ hfin.1 (firResamp_bad tb x s.op2 s.op3 s.cfg.maxBlock (hfin.grown s.opN))
    rw [hbad, Run.commit_false, hst] at hfilter
    refine ⟨fun j hj => ?_, fun q hq => ?_⟩
    · refine (State.read_filterEffect heff hwf hbad ((congrArg (·[j]?) hout).trans (getElem?_map_range _ hj))).trans ?_
      rw [hst, FilterInst.grown_branch]
      exact congrArg (cellOf · _) ((FilterInst.takes_variant ..).trans (FilterInst.grown_variant ..))
    · refine (congrArg (FilterInst.newest · (q + 1)) hfilter).trans ?_
      refine ((hw.grown s.opN).newest_takes_take hle ((f.grown_taps s.opN).symm ▸ hq)).trans ?_
      rw [FilterInst.grown_received]

end Sys2Proof.Machine
end

section
/-! PROOFS. Cascades over a sequence (spec/42_chain.md R228, spec/43_demod_bank.md R270, R448): what each stage makes, holds and carries on. -/

namespace Sys2Proof.Machine

theorem outputAs_eq_map (v : Variant) (x : List Cplx) : outputAs v x = x.map (cellOf v) :=
  List.ext_getElem? fun j => (outputAs_getElem? v x j).trans List.getElem?_map.symm

theorem cellOf_isFinite {z : Cplx} (h : z.isFinite = true) (v : Variant) : (cellOf v z).isFinite = true := by
  cases v
  · exact h
  · obtain ⟨hre, -⟩ := Bool.and_eq_true_iff.mp h
    exact Bool.and_eq_true_iff.mpr ⟨hre, (rfl : Real64.zero.isFinite = true)⟩

/-! ### What a filter's run leaves of it -/

/-- A run of a filter changes its history, cursor and phase only, whatever it read. -/
theorem firRun_commit_eq {f : FilterInst} {r : FirLoop} (h : f.sameShape r.f) (ser : Nat) (p : Place) (f0 : FilterInst)
    (x : List Cplx) (bad : Bool) : let u := (firRun ser p f0 x r).commit bad
    u = { f with hist := u.hist, cur := r.f.cur, phase := r.f.phase } ∧ u.hist.length = f.hist.length := by
  obtain ⟨hu, hphase⟩ := FilterInst.commit_of_sameShape h ser p f0 x bad
  have hcur := firRun_commit_cur ser p f0 x r bad
  obtain ⟨-, -, -, -, -, -, hlen⟩ := h
  dsimp only at hu hphase ⊢
  refine ⟨hu.trans (by rw [hcur, hphase]), ?_⟩
  cases bad
  · exact hlen
  · exact (freeSamples_length ..).trans hlen

theorem hbRun_commit_length (ser : Nat) (p : Place) (x : List Cplx) (r : HbLoop) (bad : Bool) :
    ((hbRun ser p x r).commit bad).win.length = r.i.win.length := by
  cases bad
  · rfl
  · dsimp only [hbRun, Run.commit_true, HBInst.freed]
    split
    · rfl
    · exact freeSamples_length ..

/-- What holds of a half-band after its run, freed or not, holds of the stage. -/
theorem hbStage_keeps {P : StageInst → Prop} {ser : Nat} {p : Place} {x : List Cplx} {v : Variant} {r : HbLoop}
    (h : ∀ bad, P (.hb ((hbRun ser p x r).commit bad))) : (hbStage ser p x v r).Keeps P := ⟨h false, h true⟩

theorem firStage_keeps {P : StageInst → Prop} {ser ratio : Nat} {p : Place} {f : FilterInst} {x : List Cplx} {r : FirLoop}
    (h : ∀ bad, P (.fir ((firRun ser p f x r).commit bad) ratio)) : (firStage ser p f ratio x r).Keeps P := ⟨h false, h true⟩

/-! ### The outputs of the half-band loops as lists (R206, R208) -/

section
variable (h : List Real64) (i : HBInst) (x : List Cplx)

theorem hbDec2_out_eq : (hbDec2 h i x).out = (List.range ((x.length + (StageInst.hb i).carried) / 2)).map fun j =>
    (i.pairSum h x (2 * j + 1 - (StageInst.hb i).carried) 22 44 fun k => k).add
      ((i.received x (2 * j + 1 - (StageInst.hb i).carried) 22).scale (h.getD 22 .zero)) := by
  refine List.ext_getElem (by rw [hbDec2_length, List.length_map, List.length_range]) fun j hj _ => ?_
  obtain ⟨w, hw, htaken⟩ := hbDec2_out h i x (List.getElem?_eq_getElem hj)
  rw [List.getElem_map, List.getElem_range, hw, htaken.decOut_eq h]

theorem hbInt2_out_eq (room : Nat) : (hbInt2 h room i x).out = (List.range (2 * min x.length (room / 2))).map fun q =>
    (if q % 2 = 0 then (i.pairSum h x (q / 2) 11 22 fun k => 2 * k).add ((i.received x (q / 2) 11).scale (h.getD 22 .zero))
      else i.pairSum h x (q / 2) 11 21 fun k => 2 * k + 1).scale .two := by
  have hlen := (hbInt2_length h room i x).trans (congrArg (2 * ·) (hbInt2_eaten h room i x))
  refine List.ext_getElem (by rw [hlen, List.length_map, List.length_range]) fun q hq _ => ?_
  obtain ⟨w, htaken, heven, hodd⟩ := hbInt2_out h room i x (m := q / 2) (by rw [hbInt2_eaten]; omega)
  rw [List.getElem_map, List.getElem_range]
  refine Option.some.inj ((List.getElem?_eq_getElem hq).symm.trans ?_)
  rcases Nat.mod_two_eq_zero_or_one q with h0 | h1
  · rw [show 2 * (q / 2) = q by omega] at heven
    rw [heven, htaken.evenOut_eq h, if_pos h0]
  · rw [show 2 * (q / 2) + 1 = q by omega] at hodd
    rw [hodd, htaken.oddOut_eq h, if_neg (by omega)]

/-- What a window received of a block up to an input depends on nothing later (R205). -/
theorem HBInst.received_take (e q : Nat) : i.received (x.take e) e (q + 1) = i.received x e (q + 1) := by
  unfold HBInst.received
  split
  · rw [List.getD_eq_getElem?_getD, List.getD_eq_getElem?_getD, List.getElem?_take_of_lt (by omega)]
  · rfl

end

/-! ### A stage on data of its sample type (R85) -/

/-- Growth changes a filter's scratch capacity only (R175). -/
theorem FilterInst.grown_with (f : FilterInst) (n : Nat) (h : List Cplx) (c q : Nat) :
    { f.grown n with hist := h, cur := c, phase := q } = { f with hist := h, cur := c, phase := q, scap := (f.grown n).scap } := by
  unfold FilterInst.grown
  split <;> rfl

theorem State.grown_coefs (s : State) (f : FilterInst) (n : Nat) : s.coefs (f.grown n) = s.coefs f := by
  unfold FilterInst.grown
  split <;> rfl

section
variable (s : State) (p : Place) (i : HBInst) (f : FilterInst) (r : Nat) (x : List Cplx)

theorem State.decStage_hb : s.decStage p (.hb i) x =
    hbStage s.draws p (x.map (cellOf i.variant)) i.variant (hbDec2 s.cfg.hb45 i (x.map (cellOf i.variant))) := by
  rw [← outputAs_eq_map]
  rfl

theorem State.decStage_fir : s.decStage p (.fir f r) x =
    firStage s.draws p f r (x.map (cellOf f.variant)) (firDecim (s.coefs f) r f (x.map (cellOf f.variant))) := by
  rw [← outputAs_eq_map]
  rfl

theorem State.intStage_hb : s.intStage p (.hb i) x =
    hbStage s.draws p (x.map (cellOf i.variant)) i.variant (hbInt2 s.cfg.hb45 s.cfg.maxBlock i (x.map (cellOf i.variant))) := by
  rw [← outputAs_eq_map]
  rfl

theorem State.intStage_fir : s.intStage p (.fir f r) x =
    firStage s.draws p (f.grown x.length) r (x.map (cellOf f.variant))
      (firInterp (s.coefs f) r s.cfg.maxBlock (f.grown x.length) (x.map (cellOf f.variant))) := by
  rw [← outputAs_eq_map, ← s.grown_coefs f x.length]
  rfl

end

section
variable (ser : Nat) (p : Place) (x : List Cplx)

theorem hbStage_out (v : Variant) (r : HbLoop) : (hbStage ser p x v r).out = r.out.map (cellOf v) := outputAs_eq_map ..

theorem firStage_out (f : FilterInst) (ratio : Nat) (r : FirLoop) : (firStage ser p f ratio x r).out = r.out.map (cellOf f.variant) :=
  outputAs_eq_map ..

end

theorem map_cellOf_isFinite {x : List Cplx} (h : ∀ z ∈ x, z.isFinite = true) (v : Variant) :
    ∀ z ∈ x.map (cellOf v), z.isFinite = true :=
  List.forall_mem_map.mpr fun z hz => cellOf_isFinite (h z hz) v

/-! ### A decimating stage (R170, R206, R228) -/

section
variable {s : State} (p : Place) {k : StageInst} (x : List Cplx) (h : k.Ok s.cfg)
include h

theorem State.decStage_count : (s.decStage p k x).out.length = (x.length + k.carried) / k.ratio := by
  cases k with
  | hb i => rw [State.decStage_hb, hbStage_out, List.length_map, hbDec2_length, List.length_map, StageInst.ratio]
  | fir f r =>
    obtain ⟨hb, hok, -, hphase⟩ := h
    rw [State.decStage_fir, firStage_out, List.length_map, firDecim_out _ _ (hok.whole hb) hphase, List.length_map,
      List.length_range, List.length_map]
    rfl

/-- What a decimating stage carries on, whatever it read. -/
theorem State.decStage_carries : (s.decStage p k x).Keeps (k.CarriesDown x.length) := by
  cases k with
  | hb i =>
    rw [State.decStage_hb]
    set y := x.map (cellOf i.variant) with hy
    have hlen : y.length = x.length := List.length_map ..
    refine hbStage_keeps fun bad => ?_
    have hloop := HBInst.commit_frame (hbDec2_frame s.cfg.hb45 i y) s.draws p y bad
    have htoggle := (hbRun_commit_toggle s.draws p y _ bad).trans (hbDec2_toggle s.cfg.hb45 i y)
    obtain ⟨-, -, -, hwin, -⟩ := hbDec2_spec s.cfg.hb45 i y h.1
    refine ⟨hloop.trans (by rw [htoggle, hlen]; rfl), (hbRun_commit_length ..).trans (hwin.trans h.1.symm)⟩
  | fir f r =>
    obtain ⟨hb, hok, -, hphase⟩ := h
    rw [State.decStage_fir]
    set y := x.map (cellOf f.variant) with hy
    have hlen : y.length = x.length := List.length_map ..
    refine firStage_keeps fun bad => ?_
    obtain ⟨-, -, -, hshape⟩ := firDecim_spec (s.coefs f) r f y
    obtain ⟨hu, hkept⟩ := firRun_commit_eq hshape s.draws p f y bad
    have hf := firDecim_f (s.coefs f) y hphase
    have hcur := (congrArg FilterInst.cur hf).trans (f.takes_cur y (hok.whole hb).1)
    have hphase' := congrArg FilterInst.phase hf
    exact ⟨rfl, hu.trans (by rw [hcur, hphase', hlen]; rfl), hkept⟩

omit h in
/-- Where a stage reads finite values, so does its block. -/
theorem State.StageFinite.block (hf : s.StageFinite k x) : ∀ z ∈ x, z.isFinite = true := by
  cases k <;> exact hf.1

/-- On finite values a decimating stage makes of a sequence what the rules say, and holds its newest samples. -/
theorem State.decStage_finite (hf : s.StageFinite k x) : (s.decStage p k x).bad = false ∧
    (s.decStage p k x).out = s.stageDecimates k x ∧ k.Remembers x (s.decStage p k x).st := by
  have hx := map_cellOf_isFinite hf.block
  cases k with
  | hb i =>
    have hfin : i.AllFinite (x.map (cellOf i.variant)) := ⟨hx i.variant, hf.2⟩
    rw [State.decStage_hb, hbStage_out, hbDec2_out_eq, List.map_map, List.length_map]
    refine ⟨hbRun_bad (ser := s.draws) (p := p) hfin (hbDec2_bad s.cfg.hb45 i _ hfin), rfl, fun q hq => ?_⟩
    exact (hbDec2_hasTaken s.cfg.hb45 i (x.map (cellOf i.variant)) q hq).trans (by rw [List.length_map])
  | fir f r =>
    obtain ⟨hb, hok, -, hphase⟩ := h
    have hfin : f.AllFinite (s.coefs f) (x.map (cellOf f.variant)) := ⟨hx f.variant, hf.2⟩
    rw [State.decStage_fir, firStage_out, firDecim_out _ _ (hok.whole hb) hphase, List.map_map, List.length_map]
    refine ⟨firRun_bad s.draws p f _ _ hfin.1 (firDecim_bad _ _ r hfin), rfl, fun q hq => ?_⟩
    have hst := congrArg (FilterInst.newest · (q + 1)) (firDecim_f (s.coefs f) (x.map (cellOf f.variant)) hphase)
    exact hst.trans (((hok.whole hb).newest_takes _ hq).trans (by rw [List.length_map]))

end

/-! ### An interpolating stage (R172, R175, R208, R270) -/

theorem StageInst.Ok.two_le_ratio {p : Params} {k : StageInst} (h : k.Ok p) : 2 ≤ k.ratio := by
  cases k with
  | hb i => exact Nat.le_refl 2
  | fir f r =>
    obtain ⟨-, -, hr, -⟩ := h
    exact hr

section
variable {s : State} (p : Place) {k : StageInst} (x : List Cplx) (h : k.Ok s.cfg)
include h

/-- A stage is cut exactly when it does not consume its whole block (R448). -/
theorem State.intStage_trunc : (s.intStage p k x).trunc = decide (s.eaten k x.length < x.length) := by
  cases k with
  | hb i =>
    rw [State.intStage_hb]
    refine (hbInt2_trunc s.cfg.hb45 s.cfg.maxBlock i _).trans ?_
    rw [hbInt2_eaten, List.length_map]
    rfl
  | fir f r =>
    obtain ⟨-, -, hr, -⟩ := h
    rw [State.intStage_fir]
    refine (firInterp_eaten _ _ (Nat.le_of_succ_le hr) s.cfg.maxBlock (f.grown x.length)).2.trans ?_
    rw [List.length_map, decide_eq_decide]
    exact (inf_lt_left.trans not_le).symm

/-- What an interpolating stage carries on, whatever it read. -/
theorem State.intStage_carries : (s.intStage p k x).Keeps (k.CarriesUp x.length (s.eaten k x.length)) := by
  cases k with
  | hb i =>
    rw [State.intStage_hb]
    set y := x.map (cellOf i.variant) with hy
    refine hbStage_keeps fun bad => ?_
    have hframe := hbInt2_frame s.cfg.hb45 s.cfg.maxBlock i y
    obtain ⟨-, -, hwin, -, -, htoggle⟩ := hbInt2_spec s.cfg.hb45 s.cfg.maxBlock i y h.1
    have hloop := HBInst.commit_frame (i := i) (hframe.trans (by rw [htoggle])) s.draws p y bad
    refine ⟨hloop.trans ?_, (hbRun_commit_length ..).trans (hwin.trans h.1.symm)⟩
    rw [hbRun_commit_toggle, htoggle]
  | fir f r =>
    obtain ⟨hb, hok, hr, -⟩ := h
    rw [State.intStage_fir]
    set y := x.map (cellOf f.variant) with hy
    have hlen : y.length = x.length := List.length_map ..
    refine firStage_keeps fun bad => ?_
    obtain ⟨-, -, hshape, hphase⟩ := firInterp_spec (s.coefs f) r s.cfg.maxBlock (f.grown x.length) y
    obtain ⟨hu, hkept⟩ := firRun_commit_eq hshape s.draws p (f.grown x.length) y bad
    have hw := (hok.whole hb).grown x.length
    have heaten := (firInterp_eaten (s.coefs f) y (Nat.le_of_succ_le hr) s.cfg.maxBlock (f.grown x.length)).1
    have hcur := congrArg FilterInst.cur (firInterp_f (s.coefs f) y r s.cfg.maxBlock (f.grown x.length))
    rw [FilterInst.takes_cur _ _ hw.1, heaten, List.length_take_of_le (Nat.min_le_left ..), hlen, FilterInst.grown_cur,
      FilterInst.grown_taps] at hcur
    refine ⟨rfl, hu.trans ?_, hkept.trans (by rw [FilterInst.grown_eq])⟩
    rw [hcur, hphase, FilterInst.grown_phase, ← FilterInst.grown_scap]
    exact f.grown_with ..

/-- On finite values an interpolating stage makes of a sequence what the rules say, and holds the newest samples it consumed. -/
theorem State.intStage_finite (hf : s.StageFinite k x) : (s.intStage p k x).bad = false ∧
    (s.intStage p k x).out = s.stageInterpolates k x ∧
      k.Remembers (x.take (s.eaten k x.length)) (s.intStage p k x).st := by
  have hx := map_cellOf_isFinite hf.block
  have hle : s.eaten k x.length ≤ x.length := Nat.min_le_left ..
  cases k with
  | hb i =>
    have hfin : i.AllFinite (x.map (cellOf i.variant)) := ⟨hx i.variant, hf.2⟩
    rw [State.intStage_hb, hbStage_out, hbInt2_out_eq, List.map_map, List.length_map]
    refine ⟨hbRun_bad (ser := s.draws) (p := p) hfin (hbInt2_bad s.cfg.hb45 s.cfg.maxBlock i _ hfin), rfl, fun q hq => ?_⟩
    have htaken := hbInt2_hasTaken s.cfg.hb45 s.cfg.maxBlock i (x.map (cellOf i.variant)) q hq
    rw [hbInt2_eaten, List.length_map, ← HBInst.received_take, ← List.map_take] at htaken
    rw [List.length_take_of_le hle]
    exact htaken
  | fir f r =>
    obtain ⟨hb, hok, hr, -⟩ := h
    have hw := (hok.whole hb).grown x.length
    have hr' : 1 ≤ r := Nat.le_of_succ_le hr
    have hfin : f.AllFinite (s.coefs f) (x.map (cellOf f.variant)) := ⟨hx f.variant, hf.2⟩
    have heaten := (firInterp_eaten (s.coefs f) (x.map (cellOf f.variant)) hr' s.cfg.maxBlock (f.grown x.length)).1
    rw [List.length_map] at heaten
    rw [State.intStage_fir, firStage_out, firInterp_out _ _ hw hr', heaten, List.map_map, FilterInst.grown_variant,
      FilterInst.grown_branch]
    refine ⟨firRun_bad s.draws p (f.grown x.length) _ _ hfin.1 (firInterp_bad _ _ r s.cfg.maxBlock (hfin.grown _)), rfl, fun q hq => ?_⟩
    have hst := congrArg (FilterInst.newest · (q + 1))
      (firInterp_f (s.coefs f) (x.map (cellOf f.variant)) r s.cfg.maxBlock (f.grown x.length))
    rw [heaten] at hst
    refine hst.trans ((hw.newest_takes_take ((Nat.min_le_left ..).trans (List.length_map (cellOf f.variant)).ge)
      (by rwa [FilterInst.grown_taps])).trans ?_)
    rw [FilterInst.grown_received, ← FilterInst.received_take, ← List.map_take, List.length_take_of_le hle]
    rfl

end

/-! ### Cascades, stage by stage -/

section
variable {s : State} (p : Place) {st : List StageInst} (x : List Cplx) (h : ∀ k ∈ st, k.Ok s.cfg)
include h

theorem State.runDec_count : (s.runDec p st x).out.length = cascadeCount st x.length := by
  induction st generalizing x with
  | nil => rfl
  | cons k st ih =>
    obtain ⟨hk, hst⟩ := List.forall_mem_cons.mp h
    exact (ih _ hst).trans (congrArg (cascadeCount st) (State.decStage_count _ x hk))

/-- What a decimating cascade carries on, whatever it read (R228). -/
theorem State.runDec_carries : (s.runDec p st x).Keeps fun tu => cascadeCarriesDown st tu x.length := by
  induction st generalizing x with
  | nil => exact ⟨trivial, trivial⟩
  | cons k st ih =>
    obtain ⟨hk, hst⟩ := List.forall_mem_cons.mp h
    have hhead := s.decStage_carries (st.length :: p) x hk
    have htail := ih (s.decStage (st.length :: p) k x).out hst
    rw [State.decStage_count _ x hk] at htail
    exact ⟨⟨hhead.st, htail.st⟩, hhead.freed, htail.freed⟩

/-- An interpolating cascade is cut exactly when one of its stages is (R448). -/
theorem State.runInt_trunc : (s.runInt p st x).trunc = s.interpolationCut st x.length := by
  induction st generalizing x with
  | nil => rfl
  | cons k st ih =>
    obtain ⟨hk, hst⟩ := List.forall_mem_cons.mp h
    have htail := ih (s.intStage (st.length :: p) k x).out hst
    rw [State.intStage_count] at htail
    exact congrArg₂ (· || ·) (State.intStage_trunc _ x hk) htail

/-- What an interpolating cascade carries on, whatever it read (R270). -/
theorem State.runInt_carries : (s.runInt p st x).Keeps fun tu => s.cascadeCarriesUp st tu x.length := by
  induction st generalizing x with
  | nil => exact ⟨trivial, trivial⟩
  | cons k st ih =>
    obtain ⟨hk, hst⟩ := List.forall_mem_cons.mp h
    have hhead := s.intStage_carries (st.length :: p) x hk
    have htail := ih (s.intStage (st.length :: p) k x).out hst
    rw [State.intStage_count] at htail
    exact ⟨⟨hhead.st, htail.st⟩, hhead.freed, htail.freed⟩

/-- On finite values a cascade makes of a sequence what its stages make one after the other, and each holds the newest samples it took,
when that holds of a stage. -/
theorem State.runStages_finite {step : Place → StageInst → List Cplx → Run StageInst} {stage : StageInst → List Cplx → List Cplx}
    {takes : StageInst → Nat → Nat}
    (hstep : ∀ p k x, StageInst.Ok s.cfg k → s.StageFinite k x → (step p k x).bad = false ∧ (step p k x).out = stage k x ∧
      k.Remembers (x.take (takes k x.length)) (step p k x).st)
    (hf : s.CascadeFinite stage st x) : (runStages step p st x).bad = false ∧ (runStages step p st x).out = cascaded stage st x ∧
      cascadeRemembers takes stage st (runStages step p st x).st x := by
  induction st generalizing x with
  | nil => exact ⟨rfl, rfl, trivial⟩
  | cons k st ih =>
    obtain ⟨hk, hst⟩ := List.forall_mem_cons.mp h
    obtain ⟨hkf, hrest⟩ := hf
    obtain ⟨hbad, hout, hrem⟩ := hstep (st.length :: p) k x hk hkf
    obtain ⟨hbad', hout', hrem'⟩ := ih (stage k x) hst hrest
    rw [← hout] at hbad' hout' hrem'
    refine ⟨Bool.or_eq_false_iff.mpr ⟨hbad, hbad'⟩, hout'.trans ?_, hrem, ?_⟩
    · exact congrArg (cascaded stage st) hout
    · rw [← hout]
      exact hrem'

/-- A decimating cascade on finite values (R228). -/
theorem State.runDec_finite (hf : s.CascadeFinite s.stageDecimates st x) : (s.runDec p st x).bad = false ∧
    (s.runDec p st x).out = cascaded s.stageDecimates st x ∧
      cascadeRemembers (fun _ n => n) s.stageDecimates st (s.runDec p st x).st x :=
  State.runStages_finite p x h (fun p k x hk hkf => by
    rw [List.take_length]
    exact State.decStage_finite p x hk hkf) hf

/-- An interpolating cascade on finite values (R270). -/
theorem State.runInt_finite (hf : s.CascadeFinite s.stageInterpolates st x) : (s.runInt p st x).bad = false ∧
    (s.runInt p st x).out = cascaded s.stageInterpolates st x ∧
      cascadeRemembers s.eaten s.stageInterpolates st (s.runInt p st x).st x :=
  State.runStages_finite p x h (fun p _ x hk hkf => State.intStage_finite p x hk hkf) hf

end

theorem State.runInt_count (s : State) (p : Place) (st : List StageInst) (x : List Cplx) :
    (s.runInt p st x).out.length = s.interpolatedCount st x.length := by
  induction st generalizing x with
  | nil => rfl
  | cons k st ih => exact (ih _).trans (congrArg (s.interpolatedCount st) (s.intStage_count _ k x))

theorem stagesRatio_pos {p : Params} {st : List StageInst} (h : ∀ k ∈ st, k.Ok p) : 1 ≤ stagesRatio st := by
  induction st with
  | nil => exact Nat.le_refl 1
  | cons k st ih =>
    obtain ⟨hk, hst⟩ := List.forall_mem_cons.mp h
    rw [stagesRatio_cons]
    exact Nat.mul_pos (Nat.lt_of_lt_of_le Nat.two_pos (StageInst.Ok.two_le_ratio hk)) (ih hst)

/-- Where `MAXBLOCK` admits every output no stage is cut (R270, R448). -/
theorem State.interpolatedCount_of_room {s : State} {st : List StageInst} (h : ∀ k ∈ st, k.Ok s.cfg) {n : Nat}
    (hroom : n * stagesRatio st ≤ s.cfg.maxBlock) :
    s.interpolatedCount st n = n * stagesRatio st ∧ s.interpolationCut st n = false := by
  induction st generalizing n with
  | nil => exact ⟨(Nat.mul_one n).symm, rfl⟩
  | cons k st ih =>
    obtain ⟨hk, hst⟩ := List.forall_mem_cons.mp h
    have hr := StageInst.Ok.two_le_ratio hk
    rw [stagesRatio_cons, ← Nat.mul_assoc] at hroom ⊢
    have hfit : n * k.ratio ≤ s.cfg.maxBlock := (Nat.le_mul_of_pos_right _ (stagesRatio_pos hst)).trans hroom
    have heaten : s.eaten k n = n := Nat.min_eq_left ((Nat.le_div_iff_mul_le (by omega)).mpr hfit)
    rw [State.interpolatedCount, State.interpolationCut, heaten, decide_eq_false (Nat.lt_irrefl n)]
    exact ih hst hroom

/-! ### The commands -/

/-- The checks on a bank's buffer hold of a bank that exists and a buffer that fits. -/
theorem State.bankBufChecks_ok {s : State} {id e : Nat} (hid : id < s.nbanks) (hb : s.BufferOk e) :
    ∀ c ∈ s.bankBufChecks id e, c.ok = true := by
  simp only [State.bankBufChecks, List.forall_mem_cons, idCheck_ok, State.sizeCheck_ok, State.boundsCheck_ok]
  exact ⟨hid, hb.1, hb.2, nofun⟩

/-- Outputs that an effect emits without a value that is not finite stand from its base on, in its sample type. -/
theorem State.read_done_emitted {i : Instr} {s : State} {v : Variant} {out : List Cplx} {m : Nat} (hwf : s.sm.wf = true)
    (hout : (commandEffect i s).out = emitted s.draws v false out) (hm : m < out.length) :
    (s.done i).sm.read ((commandEffect i s).base + m) = cellOf v (out.getD m .zero) := by
  refine State.read_done hwf ?_
  rw [hout, emitted_finite, outputAs_getElem?, List.getD_eq_getElem?_getD, List.getElem?_eq_getElem hm]
  rfl

/-- Settles O39: the cascade's count, its stages and, on finite values, its outputs. -/
theorem chrunDecimates : Obligations.ChrunDecimates := by
  intro s id hid hwf _ hb hvalid hok hready st x
  have hlen : x.length = s.opN := s.input_length .cplx
  have hcount : (s.chrunRun id).out.length = cascadeCount st s.opN := hlen ▸ State.runDec_count placeChain x hok
  have hcarry := hlen ▸ State.runDec_carries placeChain x hok
  have hstages : ((s.done (.chrun id)).bank id).chain.stages = (s.chrunRun id).commit (s.chrunBad id) :=
    congrArg (·.chain.stages) (State.bank_done (i := .chrun id) hid rfl)
  have hchecks : ∀ c ∈ commandChecks (.chrun id) s, c.ok = true :=
    List.forall_mem_append.mpr ⟨List.forall_mem_append.mpr ⟨State.bankBufChecks_ok hid hb, List.forall_mem_singleton.mpr hvalid⟩,
      hready⟩
  refine ⟨_, exec_of_checks hchecks nofun, ?_, ?_, ?_, fun hx hfin => ?_⟩
  · have hdone := State.completed_done (i := .chrun id) (s := s) (cut := false) rfl
    rwa [emitted_length, hcount] at hdone
  · rw [hstages]
    exact hcarry.commit _
  · rw [← hcount, ← hlen]
    exact (s.runDec_bounds placeChain _ x).1
  · obtain ⟨hclean, hout, hrem⟩ := State.runDec_finite placeChain x hok hfin
    have hbad : s.chrunBad id = false := Bool.or_eq_false_iff.mpr ⟨(anyNonFinite_eq_false x).mpr hx, hclean⟩
    refine ⟨?_, fun m hm => ?_⟩
    · rw [hstages, hbad]
      exact hrem
    · have hread := State.read_done_emitted (i := .chrun id) (v := .cplx) (out := (s.chrunRun id).out) hwf
        (congrArg (emitted s.draws .cplx · _) hbad) (hcount.symm ▸ hm)
      exact hread.trans (congrArg (fun y => List.getD y m Cplx.zero) hout)

/-- Settles O46: as CHRUN, with stages that `MAXBLOCK` may cut. -/
theorem restoreInterpolates : Obligations.RestoreInterpolates := by
  intro s id hid hwf _ d st v x count hb hvalid hok hready halloc
  have hlen : x.length = s.opN := s.input_length v
  have hcount : (s.restoreRun id).out.length = count :=
    (s.runInt_count placeRestore st x).trans (congrArg (s.interpolatedCount st) hlen)
  have htrunc : (s.restoreRun id).trunc = s.interpolationCut st s.opN :=
    (State.runInt_trunc placeRestore x hok).trans (congrArg (s.interpolationCut st) hlen)
  have hcarry := hlen ▸ State.runInt_carries placeRestore x hok
  have hstages : ((s.done (.restore id)).bank id).demod.int =
      (s.runInt placeRestore st x).commit (s.restoreRun id).bad := by
    refine (congrArg (·.demod.int) (State.bank_done (i := .restore id) hid rfl)).trans ?_
    cases (s.restoreRun id).bad <;> rfl
  have hchecks : ∀ c ∈ commandChecks (.restore id) s, c.ok = true :=
    List.forall_mem_append.mpr ⟨List.forall_mem_append.mpr ⟨State.bankBufChecks_ok hid hb, List.forall_mem_singleton.mpr hvalid⟩,
      hready⟩
  have hneeds (hn : commandNeeds (.restore id) s = true) : s.allocOk = true :=
    halloc (hlen ▸ (s.stagesGrow_eq_outgrown placeRestore st x).symm.trans hn)
  refine ⟨_, exec_of_checks hchecks hneeds, ?_, ?_, ?_, fun hroom => State.interpolatedCount_of_room hok hroom, fun hx hfin => ?_⟩
  · have hdone := State.completed_done (i := .restore id) (s := s) (cut := (s.restoreRun id).trunc) rfl
    rwa [emitted_length, hcount, htrunc] at hdone
  · exact hcount ▸ s.runInt_length placeRestore st x (hlen ▸ hb.1)
  · rw [hstages]
    exact hcarry.commit _
  · obtain ⟨hclean, hout, hrem⟩ := State.runInt_finite placeRestore x hok hfin
    have hbad : (s.restoreRun id).bad = false := Bool.or_eq_false_iff.mpr ⟨(anyNonFinite_eq_false x).mpr hx, hclean⟩
    refine ⟨?_, fun m hm => ?_⟩
    · rw [hstages, hbad]
      exact hrem
    · have hread := State.read_done_emitted (i := .restore id) (v := v) (out := (s.restoreRun id).out) hwf
        (congrArg (emitted s.draws v · _) hbad) (hcount.symm ▸ hm)
      exact hread.trans (congrArg (fun y => cellOf v (List.getD y m Cplx.zero)) hout)

end Sys2Proof.Machine
end

section
/-! PROOFS. DEMOD (spec/43_demod_bank.md R256 to R268): the refreshed filter, what the sample loop makes of the decimated stream, and every
output of the detectors. -/

namespace Sys2Proof.Machine

/-! ### The refreshed filter (R257) -/

theorem tune_eq_tunedTaps (p : Params) (c : List Real64) (f : Real64) (lower : Bool) : tune p c f lower = tunedTaps p c f lower := by
  refine List.ext_getElem (by simp [tune, tunedTaps]) fun i hi _ => ?_
  have hlt : i < c.length := by simpa [tune] using hi
  simp only [tune, tunedTaps, List.getElem_mapIdx, List.getElem_map, List.getElem_range]
  rw [List.getD_eq_getElem _ _ hlt]
  cases lower <;> rfl

theorem State.rxfLen_eq (s : State) (id : Nat) : s.rxfLen (s.bankRegs id) = (s.rxfPrototype id).length := by
  unfold State.rxfLen State.rxfPrototype
  cases s.table (s.bankRegs id).rxfTab.toNat <;> rfl

/-- The filter a refresh leaves is the one the rules give. -/
theorem State.refreshed_rxf (s : State) (id : Nat) :
    (s.refreshed (s.bank id).demod (s.bankRegs id)).rxf = s.demodFilter id := by
  unfold State.refreshed State.demodFilter
  dsimp only
  by_cases hs : (s.bank id).demod.Stale (s.bankRegs id)
  · have htuned : s.freshRxf (s.bankRegs id).rxfTab.toNat (s.bankRegs id).rxfFreq (s.bank id).demod.rxfLower =
        { FilterInst.fresh .cplx (s.bankRegs id).rxfTab.toNat (s.rxfPrototype id).length with
          tuned := some (tunedTaps s.cfg (s.rxfPrototype id) (s.bankRegs id).rxfFreq (s.bank id).demod.rxfLower) } := by
      rw [← tune_eq_tunedTaps]
      rfl
    rw [if_pos ((DemodState.stale_iff _ _).mpr hs), if_pos hs, State.rebinds, (DemodState.stale_iff _ _).mpr hs, State.rxfLen_eq,
      htuned]
    by_cases hlen : (s.rxfPrototype id).length = (s.bank id).demod.rxf.taps
    · simp only [hlen, ne_eq, not_true_eq_false, decide_false, Bool.and_false, Bool.false_eq_true, if_false, if_true]
    · simp only [hlen, ne_eq, not_false_eq_true, decide_true, Bool.and_true, if_true, if_false]
      rfl
  · rw [if_neg (mt (DemodState.stale_iff _ _).mp hs), if_neg hs]

/-! ### The sample loop (R256) -/

/-- What the detector of DEMOD gets of a block: the filter's outputs, or the block. -/
def filteredSamples (tb : List Real64) (useF : Bool) (f : FilterInst) (x : List Cplx) : List Cplx :=
  if useF then (firApply tb f x).out else x

/-- The demodulator after the first `m` samples of a sequence went through its detector. -/
def detectedAfter (p : Params) (r : ModeRec) (d : DemodState) (zs : List Cplx) (m : Nat) : DemodState :=
  (zs.take m).foldl (fun d z => (detect p r d z).1) d

section
variable (p : Params) (r : ModeRec) (tb : List Real64) (useF : Bool) (d : DemodState) (g : FilterInst) (x zs : List Cplx)

theorem filteredSamples_cons (z : Cplx) : filteredSamples tb useF g (z :: x) =
    (if useF then (g.put z).dot tb 0 1 else z) :: filteredSamples tb useF (if useF then g.next z else g) x := by
  cases useF <;> rfl

theorem filteredSamples_length : (filteredSamples tb useF g x).length = x.length := by
  cases useF
  · rfl
  · exact (firApply_spec tb g x).1

/-- A detector reads and writes nothing of the filter. -/
theorem detect_withRxf (z : Cplx) :
    detect p r { d with rxf := g } z = ({ (detect p r d z).1 with rxf := g }, (detect p r d z).2) := by
  unfold detect
  cases r.kind <;> rfl

theorem detectedAfter_withRxf (m : Nat) :
    detectedAfter p r { d with rxf := g } zs m = { detectedAfter p r d zs m with rxf := g } := by
  unfold detectedAfter
  induction zs.take m generalizing d with
  | nil => rfl
  | cons z zs ih =>
    rw [List.foldl_cons, List.foldl_cons, detect_withRxf]
    exact ih _

theorem detectedAfter_succ {m : Nat} {z : Cplx} (hz : zs[m]? = some z) :
    detectedAfter p r d zs (m + 1) = (detect p r (detectedAfter p r d zs m) z).1 := by
  unfold detectedAfter
  rw [List.take_add_one, hz, List.foldl_append]
  rfl

/-- A step of DEMOD's loop: the filter takes the sample when it runs, and the detector gets its output (R256). -/
theorem demodLoop_cons (z : Cplx) : demodLoop p r tb useF d (z :: x) =
    let y := detect p r { d with rxf := if useF then d.rxf.next z else d.rxf } (if useF then (d.rxf.put z).dot tb 0 1 else z)
    let q := demodLoop p r tb useF y.1 x
    ⟨q.d, y.2 :: q.out, (useF && (d.rxf.put z).dotBad tb 0 1) || detectBad r d || q.bad⟩ := by
  cases useF <;> rfl

/-- Every output of DEMOD's loop is what the detector makes of the sample it gets. -/
theorem demodLoop_out (m : Nat) : (demodLoop p r tb useF d x).out[m]? =
    (filteredSamples tb useF d.rxf x)[m]?.map fun z =>
      (detect p r (detectedAfter p r d (filteredSamples tb useF d.rxf x) m) z).2 := by
  induction x generalizing d m with
  | nil => cases useF <;> rfl
  | cons z x ih =>
    rw [demodLoop_cons, filteredSamples_cons, detect_withRxf]
    cases m with
    | zero => rfl
    | succ m =>
      refine (ih _ m).trans (congrArg (Option.map · _) (funext fun w => ?_))
      rw [detectedAfter_withRxf, detect_withRxf]
      rfl

/-- What DEMOD's loop leaves: the detector's memory and the filter with its inputs taken. -/
theorem demodLoop_d : (demodLoop p r tb useF d x).d =
    { detectedAfter p r d (filteredSamples tb useF d.rxf x) x.length with rxf := if useF then d.rxf.takes x else d.rxf } := by
  induction x generalizing d with
  | nil => cases useF <;> rfl
  | cons z x ih =>
    rw [demodLoop_cons, filteredSamples_cons, detect_withRxf]
    refine (ih _).trans ?_
    rw [detectedAfter_withRxf]
    cases useF <;> rfl

/-- A detector reads no value that is not finite: FM's memory is the sample before (R261). -/
theorem demodLoop_bad (hdot : useF = true → d.rxf.AllFinite tb x)
    (hfm : r.kind = .fm → d.fmPrev.isFinite = true ∧ ∀ z ∈ filteredSamples tb useF d.rxf x, z.isFinite = true) :
    (demodLoop p r tb useF d x).bad = false := by
  induction x generalizing d with
  | nil => rfl
  | cons z x ih =>
    rw [demodLoop_cons, detect_withRxf]
    rw [filteredSamples_cons] at hfm
    have hread : (useF && (d.rxf.put z).dotBad tb 0 1) = false := by
      cases useF
      · rfl
      · exact (hdot rfl).put.dotBad 0 1
    have hprev : detectBad r d = false := by
      unfold detectBad
      by_cases hk : r.kind = .fm
      · rw [(hfm hk).1, Bool.not_true, Bool.and_false]
      · rw [decide_eq_false hk, Bool.false_and]
    refine Bool.or_eq_false_iff.mpr ⟨Bool.or_eq_false_iff.mpr ⟨hread, hprev⟩, ih _ (fun hu => ?_) fun hk => ?_⟩
    · subst hu
      exact (hdot rfl).put
    · obtain ⟨hz, hrest⟩ := List.forall_mem_cons.mp (hfm hk).2
      refine ⟨?_, hrest⟩
      unfold detect
      rw [hk]
      exact hz

theorem detectedAfter_rxfLower (m : Nat) : (detectedAfter p r d zs m).rxfLower = d.rxfLower := by
  unfold detectedAfter
  induction zs.take m generalizing d with
  | nil => rfl
  | cons z zs ih =>
    rw [List.foldl_cons, ih, detect_frame]

end

/-! ### DEMOD's run -/

section
variable (s : State) (id : Nat)

/-- DEMOD's decimating stages over its block (R256). -/
def State.demodDec : Run (List StageInst) :=
  s.runDec (10 :: placeDemod) (s.refreshed (s.bank id).demod (s.bankRegs id)).dec (s.input .cplx)

/-- The demodulator DEMOD's sample loop starts with. -/
def State.demodStart : DemodState :=
  { s.refreshed (s.bank id).demod (s.bankRegs id) with dec := (s.demodDec id).st }

/-- The receive filter runs (R256, R264). -/
def State.demodUses : Bool := useFilter s.cfg (s.demodKind id) (s.bankRegs id).rxfBw

/-- DEMOD's sample loop. -/
def State.demodLooped : DemodLoop :=
  demodLoop s.cfg (s.cfg.modeRec (s.bank id).demod.mode) (s.coefs (s.demodStart id).rxf) (s.demodUses id) (s.demodStart id)
    (s.demodDec id).out

theorem State.demodDec_eq : s.demodDec id = s.runDec (10 :: placeDemod) (s.bank id).demod.dec (s.input .cplx) := by
  rw [State.demodDec, State.refreshed_frame]

theorem State.demodStart_eq : s.demodStart id = { (s.bank id).demod with
    dec := (s.demodDec id).st, rxf := s.demodFilter id, rxfTab := (s.bankRegs id).rxfTab.toNat,
    rxfFreq := (s.bankRegs id).rxfFreq } := by
  obtain ⟨htab, hfreq⟩ := s.refreshed_latched (s.bankRegs id) (s.bank id).demod
  rw [← s.refreshed_rxf, ← htab, ← hfreq, State.demodStart]
  conv_lhs => rw [State.refreshed_frame]

/-- What DEMOD leaves of its bank where it read no value that is not finite. -/
theorem State.demodRun_st : ∃ voice, (s.demodRun id).st = { (s.demodLooped id).d with dv := voice } := by
  dsimp only [State.demodRun, State.runDemod]
  split <;> exact ⟨_, rfl⟩

/-- Outside digital voice DEMOD's run is its loop (R268). -/
theorem State.demodRun_of_ne_dv (hk : s.demodKind id ≠ .dv) :
    (s.demodRun id).st = (s.demodLooped id).d ∧ (s.demodRun id).out = (s.demodLooped id).out := by
  dsimp only [State.demodRun, State.runDemod]
  rw [if_neg hk, if_neg hk]
  exact ⟨rfl, rfl⟩

/-- DEMOD writes no more samples than it read (R86, R268). -/
theorem State.demodRun_length_le : (s.demodRun id).out.length ≤ s.opN := by
  by_cases hk : s.demodKind id = .dv
  · dsimp only [State.demodRun, State.runDemod]
    rw [if_pos hk, List.length_map]
    exact (List.length_take_le ..).trans (Nat.min_le_right ..)
  · rw [(s.demodRun_of_ne_dv id hk).2, State.demodLooped, demodLoop_length]
    exact (s.runDec_bounds _ _ _).1.trans (s.input_length .cplx).le

/-- What DEMOD's run leaves of its stages and of the filter's shape, whatever it read. -/
theorem State.demodRun_commit (bad : Bool) :
    let u := (s.demodRun id).commit bad
    u.dec = (s.demodDec id).commit bad ∧ u.rxfTab = (s.bankRegs id).rxfTab.toNat ∧
      u.rxf.taps = (s.demodFilter id).taps ∧ u.rxf.tab = (s.demodFilter id).tab := by
  have hst : (s.demodRun id).st.dec = (s.demodDec id).st ∧ (s.demodRun id).st.rxfTab = (s.bankRegs id).rxfTab.toNat ∧
      (s.demodRun id).st.rxf.taps = (s.demodFilter id).taps ∧ (s.demodRun id).st.rxf.tab = (s.demodFilter id).tab := by
    obtain ⟨voice, hvoice⟩ := s.demodRun_st id
    have hframe := demodLoop_frame s.cfg (s.cfg.modeRec (s.bank id).demod.mode) (s.coefs (s.demodStart id).rxf)
      (s.demodUses id) (s.demodStart id) (s.demodDec id).out
    have hrxf : (s.demodLooped id).d.rxf = _ := congrArg DemodState.rxf (demodLoop_d ..)
    have hdec : (s.demodLooped id).d.dec = _ := congrArg DemodState.dec hframe
    have htab : (s.demodLooped id).d.rxfTab = _ := congrArg DemodState.rxfTab hframe
    rw [hvoice]
    dsimp only
    rw [hdec, htab, hrxf, State.demodStart_eq]
    refine ⟨rfl, rfl, ?_, ?_⟩
    · dsimp only
      split
      · rw [FilterInst.takes_frame]
      · rfl
    · dsimp only
      split
      · rw [FilterInst.takes_frame]
      · rfl
  cases bad
  · exact hst
  · obtain ⟨-, hfreed⟩ := hst
    refine ⟨rfl, ?_⟩
    rw [← hfreed.1, ← hfreed.2.1, ← hfreed.2.2]
    dsimp only [Run.commit_true, State.demodRun, State.runDemod, DemodState.freed]
    refine ⟨rfl, ?_, ?_⟩ <;> split <;> rfl

theorem State.demodUses_iff : s.demodUses id = true ↔ s.FilterUsed id := by
  unfold State.demodUses State.FilterUsed useFilter
  cases s.demodKind id <;> simp

end

end Sys2Proof.Machine
end

section
/-! PROOFS. What DEMOD completes with (spec/43_demod_bank.md R256 to R268): counts, carried state, and every output of the detectors. -/

namespace Sys2Proof.Machine

/-! ### A demodulator that is ready, and finite values -/

/-- A stage gets nothing, makes nothing and keeps its state. -/
theorem State.runDec_nil (s : State) (p : Place) (st : List StageInst) :
    (s.runDec p st []).st = st ∧ (s.runDec p st []).out = [] ∧ (s.runDec p st []).bad = false := by
  induction st with
  | nil => exact ⟨rfl, rfl, rfl⟩
  | cons k st ih =>
    have hk : (s.decStage (st.length :: p) k []).st = k ∧ (s.decStage (st.length :: p) k []).out = [] ∧
        (s.decStage (st.length :: p) k []).bad = false := by
      cases k with
      | hb i => rw [State.decStage_hb]; exact ⟨rfl, hbStage_out .., rfl⟩
      | fir f r => rw [State.decStage_fir]; exact ⟨rfl, firStage_out .., rfl⟩
    obtain ⟨hst, hout, hbad⟩ := hk
    obtain ⟨hst', hout', hbad'⟩ := ih
    rw [← hout] at hst' hout' hbad'
    exact ⟨List.cons_eq_cons.mpr ⟨hst, hst'⟩, hout'.trans hout, Bool.or_eq_false_iff.mpr ⟨hbad, hbad'⟩⟩

/-- The samples DEMOD's detector gets: the stream through the receive filter where it runs (R256). -/
def State.demodSamples (s : State) (id : Nat) : List Cplx :=
  filteredSamples (s.coefs (s.demodFilter id)) (s.demodUses id) (s.demodFilter id) (s.demodStream id)

section
variable {s : State} {id : Nat}

/-- The registers DEMOD reads are finite (R11, U3, U17). -/
theorem State.DemodTuned.clean (h : s.DemodTuned id) : s.refreshBad (s.bank id).demod (s.bankRegs id) = false ∧
    bandwidthBad (s.demodKind id) (s.bankRegs id).rxfBw = false ∧ frequencyBad (s.bankRegs id).rxfFreq = false := by
  obtain ⟨hfreq, hbw, hproto⟩ := h
  refine ⟨?_, ?_, ?_⟩
  · unfold State.refreshBad
    by_cases hs : (s.bank id).demod.Stale (s.bankRegs id)
    · have hclean : anyNonFiniteReal (s.rxfPrototype id) = false := by
        simpa [anyNonFiniteReal] using hproto hs
      exact Bool.and_eq_false_iff.mpr (.inr hclean)
    · exact Bool.and_eq_false_iff.mpr (.inl (decide_eq_false hs))
  · unfold bandwidthBad readsBandwidth
    by_cases hk : s.demodKind id = .digSum ∨ s.demodKind id = .digRaw
    · rw [hbw hk, Bool.and_false]
    · rw [decide_eq_false hk, Bool.false_and]
  · rw [frequencyBad, hfreq, Bool.not_true]

/-- DEMOD reads no value that is not finite where its stages, its stream and its loop read none. -/
theorem State.demodRun_bad (htuned : s.DemodTuned id) (hx : ∀ z ∈ s.input .cplx, z.isFinite = true)
    (hdec : (s.demodDec id).bad = false) (hy : ∀ z ∈ (s.demodDec id).out, z.isFinite = true)
    (hloop : (s.demodLooped id).bad = false) : (s.demodRun id).bad = false := by
  obtain ⟨hrefresh, hbw, hfreq⟩ := htuned.clean
  have hinput := (anyNonFinite_eq_false _).mpr hx
  have hstream := (anyNonFinite_eq_false _).mpr hy
  refine Bool.or_eq_false_iff.mpr ⟨Bool.or_eq_false_iff.mpr ⟨Bool.or_eq_false_iff.mpr ⟨Bool.or_eq_false_iff.mpr
    ⟨Bool.or_eq_false_iff.mpr ⟨Bool.or_eq_false_iff.mpr ⟨hinput, hdec⟩, hstream⟩, hloop⟩, hrefresh⟩, hbw⟩, hfreq⟩

section
variable (hready : s.DemodReady id)
include hready

/-- DEMOD completes (R256, R257). -/
theorem exec_demod_of_ready (hid : id < s.nbanks) (hb : s.BufferOk s.opN) : exec (.demod id) s = .next (s.done (.demod id)) := by
  obtain ⟨hvalid, hkind, -, hstages, hrefresh, halloc⟩ := hready
  refine exec_of_checks ?_ fun hn => halloc ((DemodState.stale_iff _ _).mp hn)
  exact List.forall_mem_append.mpr ⟨List.forall_mem_append.mpr ⟨State.bankBufChecks_ok hid hb, List.forall_mem_singleton.mpr hvalid⟩,
    List.forall_mem_append.mpr ⟨List.forall_mem_append.mpr ⟨List.forall_mem_singleton.mpr (decide_eq_true hkind),
      State.refreshChecks_ok hrefresh⟩, hstages⟩⟩

theorem State.demodDec_count : (s.demodDec id).out.length = cascadeCount (s.bank id).demod.dec s.opN := by
  obtain ⟨-, -, hok, -⟩ := hready
  rw [State.demodDec_eq, State.runDec_count _ _ hok, State.input_length]

variable (hfin : s.DemodFinite id)
include hfin

/-- On finite values DEMOD's stages make its stream. -/
theorem State.demodDec_finite : (s.demodDec id).bad = false ∧ (s.demodDec id).out = s.demodStream id ∧
    cascadeRemembers (fun _ n => n) s.stageDecimates (s.bank id).demod.dec (s.demodDec id).st (s.input .cplx) := by
  obtain ⟨-, -, hok, -⟩ := hready
  obtain ⟨-, hcascade, -⟩ := hfin
  rw [State.demodDec_eq]
  exact State.runDec_finite _ _ hok hcascade

omit hready in
theorem State.demodFilter_whole (hu : s.FilterUsed id) : (s.demodFilter id).Whole := by
  obtain ⟨-, -, -, hused, -⟩ := hfin
  obtain ⟨hbound, hok, -⟩ := hused hu
  exact hok.whole hbound

omit hready in
/-- The detector's samples are the filter's where it runs, and the stream's otherwise (R256, R264). -/
theorem State.demodSamples_getElem? {m : Nat} (hm : m < (s.demodStream id).length) : (s.demodSamples id)[m]? =
    some (if s.demodUses id then s.demodFiltered id m else (s.demodStream id).getD m .zero) := by
  unfold State.demodSamples filteredSamples
  cases hu : s.demodUses id
  · exact (List.getElem?_eq_getElem hm).trans (congrArg some (List.getD_eq_getElem _ _ hm).symm)
  · rw [if_pos rfl, firApply_out _ _ (s.demodFilter_whole hfin ((s.demodUses_iff id).mp hu))]
    exact getElem?_map_range _ hm

/-- What DEMOD's loop leaves, on the stream. -/
theorem State.demodLooped_eq : (s.demodLooped id).bad = false ∧
    (s.demodLooped id).d = { detectedAfter s.cfg (s.cfg.modeRec (s.bank id).demod.mode) (s.demodStart id) (s.demodSamples id)
      (s.demodStream id).length with
      rxf := if s.demodUses id then (s.demodFilter id).takes (s.demodStream id) else s.demodFilter id } ∧
    ∀ m, (s.demodLooped id).out[m]? = (s.demodSamples id)[m]?.map fun z =>
      (detect s.cfg (s.cfg.modeRec (s.bank id).demod.mode)
        (detectedAfter s.cfg (s.cfg.modeRec (s.bank id).demod.mode) (s.demodStart id) (s.demodSamples id) m) z).2 := by
  obtain ⟨-, hout, -⟩ := State.demodDec_finite hready hfin
  have hrxf : (s.demodStart id).rxf = s.demodFilter id := by rw [State.demodStart_eq]
  have hprev : (s.demodStart id).fmPrev = (s.bank id).demod.fmPrev := by rw [State.demodStart_eq]
  have hsamples : filteredSamples (s.coefs (s.demodStart id).rxf) (s.demodUses id) (s.demodStart id).rxf (s.demodDec id).out =
      s.demodSamples id := by rw [hrxf, hout, State.demodSamples]
  have hget {m : Nat} := State.demodSamples_getElem? hfin (m := m)
  obtain ⟨-, -, -, hused, hfm⟩ := hfin
  refine ⟨demodLoop_bad _ _ _ _ _ _ (fun hu => ?_) fun hk => ?_, ?_, fun m => ?_⟩
  · obtain ⟨-, -, hall⟩ := hused ((s.demodUses_iff id).mp hu)
    rw [hrxf, hout]
    exact hall
  · obtain ⟨hp, hall⟩ := hfm hk
    rw [hsamples, hprev]
    refine ⟨hp, fun z hz => ?_⟩
    obtain ⟨m, hm, rfl⟩ := List.getElem_of_mem hz
    have hm' : m < (s.demodStream id).length := hm.trans_eq (filteredSamples_length ..)
    have hz' := Option.some.inj ((List.getElem?_eq_getElem hm).symm.trans (hget hm'))
    rw [(s.demodUses_iff id).mpr (.inr (.inr (.inl hk))), if_pos rfl] at hz'
    exact hz'.symm ▸ hall m hm'
  · refine (demodLoop_d ..).trans ?_
    rw [hsamples, hrxf, hout]
  · refine (demodLoop_out ..).trans ?_
    rw [hsamples]

theorem State.demodRun_finite : (s.demodRun id).bad = false := by
  obtain ⟨hdec, hout, -⟩ := State.demodDec_finite hready hfin
  obtain ⟨hloop, -⟩ := State.demodLooped_eq hready hfin
  obtain ⟨htuned, -, hblock, -⟩ := hfin
  obtain ⟨hx, hy⟩ := List.forall_mem_append.mp hblock
  exact State.demodRun_bad htuned hx hdec (hout.symm ▸ hy) hloop

end

/-- The demodulator a DEMOD leaves. -/
theorem State.demod_done (hid : id < s.nbanks) :
    ((s.done (.demod id)).bank id).demod = (s.demodRun id).commit (s.demodRun id).bad :=
  congrArg Bank.demod (State.bank_done (i := .demod id) hid rfl)

theorem State.completed_demod : s.Completed (s.done (.demod id)) (BitVec.ofNat 64 (s.demodRun id).out.length) 0 false := by
  have h := State.completed_done (i := .demod id) (s := s) (cut := false) rfl
  rwa [emitted_length] at h

end

/-! ### DEMOD -/

/-- Settles O43: the stages' counts, and what the loop leaves of stages and filter. -/
theorem demodCompletes : Obligations.DemodCompletes := by
  intro s id hid _ hb hready d c rxf y
  have hcount := State.demodDec_count hready
  have hok : ∀ k ∈ d.dec, k.Ok s.cfg := by
    obtain ⟨-, -, hok, -⟩ := hready
    exact hok
  have hlen (hk : s.demodKind id ≠ .dv) : (s.demodRun id).out.length = cascadeCount d.dec s.opN := by
    rw [(s.demodRun_of_ne_dv id hk).2, State.demodLooped, demodLoop_length, hcount]
  obtain ⟨hdec, htab, htaps, hslot⟩ := s.demodRun_commit id (s.demodRun id).bad
  rw [← State.demod_done hid] at hdec htab htaps hslot
  refine ⟨_, _, exec_demod_of_ready hready hid hb, State.completed_demod, s.demodRun_length_le id, hlen, ?_, htab, htaps, hslot,
    fun htuned hk hzero => ?_, fun hfin => ?_⟩
  · have hcarry := State.runDec_carries (10 :: placeDemod) (s.input .cplx) hok
    rw [State.input_length, ← s.demodDec_eq id] at hcarry
    rw [hdec]
    exact hcarry.commit _
  · have hempty : s.input .cplx = [] := List.eq_nil_of_length_eq_zero ((s.input_length .cplx).trans hzero)
    obtain ⟨hst, hout, hclean⟩ := s.runDec_nil (10 :: placeDemod) d.dec
    rw [← hempty, ← s.demodDec_eq id] at hst hout hclean
    have hloop : s.demodLooped id = ⟨s.demodStart id, [], false⟩ := by
      unfold State.demodLooped
      rw [show (s.demodDec id).out = [] from hout.trans hempty]
      rfl
    have hbad : (s.demodRun id).bad = false :=
      State.demodRun_bad htuned (hempty ▸ nofun) hclean (hout ▸ hempty ▸ nofun) (congrArg DemodLoop.bad hloop)
    rw [State.demod_done hid, hbad, Run.commit_false, (s.demodRun_of_ne_dv id hk).1, hloop, State.demodStart_eq, hst]
  · obtain ⟨-, hstream, hrem⟩ := State.demodDec_finite hready hfin
    obtain ⟨-, hd, -⟩ := State.demodLooped_eq hready hfin
    obtain ⟨voice, hvoice⟩ := s.demodRun_st id
    have hbad := State.demodRun_finite hready hfin
    have hu : ((s.done (.demod id)).bank id).demod.rxf = if s.demodUses id then rxf.takes y else rxf := by
      rw [State.demod_done hid, hbad, Run.commit_false, hvoice, hd]
    refine ⟨?_, ?_, ?_, fun hunused => ?_, fun hused => ?_⟩
    · rw [hu]
      split
      · rw [FilterInst.takes_frame]
      · rfl
    · rw [State.demod_done hid, hbad, Run.commit_false]
      have hframe := congrArg DemodState.rxfFreq (s.runDemod_frame c d (min s.cfg.maxBlock s.opN) (s.input .cplx))
      exact hframe.trans (s.refreshed_latched c d).2
    · rw [hdec, hbad]
      exact hrem
    · rw [hu, if_neg (mt (s.demodUses_iff id).mp hunused)]
    · rw [hu, if_pos ((s.demodUses_iff id).mpr hused)]
      have hw := State.demodFilter_whole hfin hused
      refine ⟨?_, fun q hq => hw.newest_takes y hq⟩
      rw [← rxf.takes_cur y hw.1]
      exact rxf.takes_frame y

end Sys2Proof.Machine
end

section
/-! PROOFS. The detectors of DEMOD over its stream (spec/43_demod_bank.md R258 to R265, R449): every output, and the memory they keep. -/

namespace Sys2Proof.Machine

/-- The demodulator after the first `m` samples of DEMOD's stream. -/
def State.demodAfter (s : State) (id m : Nat) : DemodState :=
  detectedAfter s.cfg (s.cfg.modeRec (s.bank id).demod.mode) (s.demodStart id) (s.demodSamples id) m

/-- What the detector makes of sample `m` of DEMOD's stream. -/
def State.demodOut (s : State) (id m : Nat) : Cplx :=
  (detect s.cfg (s.cfg.modeRec (s.bank id).demod.mode) (s.demodAfter id m) ((s.demodSamples id).getD m .zero)).2

section
variable {s : State} {id : Nat} (hid : id < s.nbanks) (hwf : s.sm.wf = true) (hb : s.BufferOk s.opN) (hready : s.DemodReady id)
  (hfin : s.DemodFinite id)

section
include hfin

/-- Sample `m` as the detector gets it (R256, R264). -/
theorem State.demodSamples_getD {m : Nat} (hm : m < (s.demodStream id).length) : (s.demodSamples id).getD m .zero =
    if s.demodUses id then s.demodFiltered id m else (s.demodStream id).getD m .zero := by
  rw [List.getD_eq_getElem?_getD, State.demodSamples_getElem? hfin hm, Option.getD_some]

/-- One sample on, the detector went over it (R256). -/
theorem State.demodAfter_succ {m : Nat} (hm : m < (s.demodStream id).length) : s.demodAfter id (m + 1) =
    (detect s.cfg (s.cfg.modeRec (s.bank id).demod.mode) (s.demodAfter id m)
      (if s.demodUses id then s.demodFiltered id m else (s.demodStream id).getD m .zero)).1 :=
  detectedAfter_succ _ _ _ _ (State.demodSamples_getElem? hfin hm)

end

include hid hwf hb hready hfin

/-- Outside digital voice DEMOD writes an output for each sample of its stream, in the mode's sample type, and keeps its memory. -/
theorem exec_demod_outputs (hk : s.demodKind id ≠ .dv) : ∃ t, exec (.demod id) s = .next t ∧
    s.Completed t (BitVec.ofNat 64 (s.demodStream id).length) 0 false ∧
    (∃ f, (t.bank id).demod = { s.demodAfter id (s.demodStream id).length with rxf := f }) ∧
    ∀ m < (s.demodStream id).length, t.sm.read (s.opA + m) = cellOf (audioOf (s.demodKind id)) (s.demodOut id m) := by
  obtain ⟨-, hd, hout⟩ := State.demodLooped_eq hready hfin
  obtain ⟨-, hstream, -⟩ := State.demodDec_finite hready hfin
  obtain ⟨hst, houts⟩ := s.demodRun_of_ne_dv id hk
  have hbad := State.demodRun_finite hready hfin
  have hlen : (s.demodRun id).out.length = (s.demodStream id).length := by
    rw [houts, State.demodLooped, demodLoop_length, hstream]
  refine ⟨_, exec_demod_of_ready hready hid hb, ?_,
    ⟨if s.demodUses id then (s.demodFilter id).takes (s.demodStream id) else s.demodFilter id, ?_⟩, fun m hm => ?_⟩
  · exact hlen ▸ State.completed_demod
  · rw [State.demod_done hid, hbad, Run.commit_false, hst]
    exact hd
  · have hread := State.read_done_emitted (i := .demod id) (v := audioOf (s.demodKind id)) (out := (s.demodRun id).out) hwf
      (congrArg (emitted s.draws (audioOf (s.demodKind id)) · _) hbad) (hlen.symm ▸ hm)
    refine hread.trans (congrArg (cellOf _) ?_)
    rw [houts, List.getD_eq_getElem?_getD, hout, State.demodOut, State.demodSamples_getD hfin hm,
      State.demodSamples_getElem? hfin hm]
    rfl

end

/-! ### What each detector makes of a sample (R258 to R265) -/

section
variable {p : Params} {r : ModeRec} (d : DemodState) (z : Cplx)

theorem detect_ssbcw (h : r.kind = .ssbcw) :
    detect p r d z = (d, .ofReal (if (!d.rxfLower) = p.sbPlusIsUpper then z.re.add z.im else z.re.sub z.im)) := by
  rw [detect, h]
  simp only [sumOrDiff, decide_eq_true_eq]

theorem detect_am (h : r.kind = .am) : detect p r d z = detectAM p d z := by rw [detect, h]

theorem detect_fm (h : r.kind = .fm) : detect p r d z = detectFM p r.filterRate d z := by rw [detect, h]

theorem detect_digSum (h : r.kind = .digSum) :
    detect p r d z = (d, .ofReal (if r.lower then z.re.sub z.im else z.re.add z.im)) := by
  rw [detect, h]
  cases r.lower <;> simp [sumOrDiff]

theorem detect_digRaw (h : r.kind = .digRaw) : detect p r d z = (d, z) := by rw [detect, h]

end

/-- Settles O44: the detectors that keep no memory, sample by sample. -/
theorem sidebandAndDigitalDetectors : Obligations.SidebandAndDigitalDetectors := by
  intro s id hid hwf _ hb hready hfin d y lower chosen gives
  have hgives {out : Nat → Cplx} (hk : s.demodKind id ≠ .dv)
      (hout : ∀ m < y.length, cellOf (audioOf (s.demodKind id)) (s.demodOut id m) = out m) : gives out := by
    obtain ⟨t, ht, hdone, -, hread⟩ := exec_demod_outputs hid hwf hb hready hfin hk
    exact ⟨t, ht, hdone, fun m hm => (hread m hm).trans (hout m hm)⟩
  have hsample {m : Nat} (hm : m < y.length) := State.demodSamples_getD hfin hm
  have hchosen {m : Nat} (hk : s.demodKind id = .digSum ∨ s.demodKind id = .digRaw) (hm : m < y.length) :
      (s.demodSamples id).getD m .zero = chosen m := by
    rw [hsample hm, State.demodUses]
    rcases hk with hk | hk <;> rw [hk] <;> rfl
  refine ⟨fun hk => hgives (by rw [hk]; decide) fun m hm => ?_, fun hk => hgives (by rw [hk]; decide) fun m hm => ?_,
    fun hk => hgives (by rw [hk]; decide) fun m hm => ?_⟩
  · have huses : s.demodUses id = true := (s.demodUses_iff id).mpr (.inl hk)
    have hlower : (s.demodAfter id m).rxfLower = d.rxfLower := (detectedAfter_rxfLower ..).trans (by rw [State.demodStart_eq])
    rw [hk, State.demodOut, detect_ssbcw _ _ hk, hsample hm, huses, hlower]
    rfl
  · rw [hk, State.demodOut, detect_digSum _ _ hk, hchosen (.inl hk) hm]
    rfl
  · rw [hk, State.demodOut, detect_digRaw _ _ hk, hchosen (.inr hk) hm]
    rfl

/-! ### The detectors with a memory (R260, R261, R449) -/

section
variable {s : State} {id : Nat} (hfin : s.DemodFinite id)
include hfin

/-- The AM detector's memory after each sample (R260). -/
theorem State.demodAfter_amDc (hk : s.demodKind id = .am) {m : Nat} (hm : m ≤ (s.demodStream id).length) :
    (s.demodAfter id m).amDc = s.amAfter id m := by
  induction m with
  | zero => rw [State.demodAfter, detectedAfter, List.take_zero, List.foldl_nil, State.demodStart_eq, State.amAfter]
  | succ m ih =>
    have huses : s.demodUses id = true := (s.demodUses_iff id).mpr (.inr (.inl hk))
    rw [State.demodAfter_succ hfin hm, huses, detect_am _ _ hk, State.amAfter, ← ih (Nat.le_of_succ_le hm)]
    rfl

/-- The FM detector's memory after each sample (R261). -/
theorem State.demodAfter_fm (hk : s.demodKind id = .fm) {m : Nat} (hm : m ≤ (s.demodStream id).length) :
    (s.demodAfter id m).fmPrev = s.fmBefore id m ∧
      ((s.demodAfter id m).fmX1, (s.demodAfter id m).fmY1) = s.fmAfter id m := by
  induction m with
  | zero =>
    rw [State.demodAfter, detectedAfter, List.take_zero, List.foldl_nil, State.demodStart_eq]
    exact ⟨rfl, rfl⟩
  | succ m ih =>
    obtain ⟨hprev, hmem⟩ := ih (Nat.le_of_succ_le hm)
    have huses : s.demodUses id = true := (s.demodUses_iff id).mpr (.inr (.inr (.inl hk)))
    rw [State.demodAfter_succ hfin hm, huses, detect_fm _ _ hk]
    refine ⟨rfl, ?_⟩
    rw [State.fmAfter, ← hmem, State.fmPhaseAt, ← hprev]
    rfl

end

/-- Settles O45: the detectors that keep a memory, sample by sample. -/
theorem amAndFmDetectors : Obligations.AmAndFmDetectors := by
  intro s id hid hwf _ hb hready hfin n
  refine ⟨fun hk => ?_, fun hk => ?_⟩
  · obtain ⟨t, ht, hdone, ⟨f, hbank⟩, hread⟩ := exec_demod_outputs hid hwf hb hready hfin (by rw [hk]; decide)
    have huses : s.demodUses id = true := (s.demodUses_iff id).mpr (.inr (.inl hk))
    refine ⟨t, ht, hdone, ?_, fun m hm => ?_⟩
    · rw [hbank]
      exact State.demodAfter_amDc hfin hk le_rfl
    · rw [hread m hm, hk, State.demodOut, detect_am _ _ hk, State.demodSamples_getD hfin hm, huses, State.amAfter,
        ← State.demodAfter_amDc hfin hk hm.le]
      rfl
  · obtain ⟨t, ht, hdone, ⟨f, hbank⟩, hread⟩ := exec_demod_outputs hid hwf hb hready hfin (by rw [hk]; decide)
    have huses : s.demodUses id = true := (s.demodUses_iff id).mpr (.inr (.inr (.inl hk)))
    obtain ⟨hprev, hmem⟩ := State.demodAfter_fm hfin hk (le_refl n)
    refine ⟨t, ht, hdone, ?_, ?_, fun m hm => ?_⟩
    · rw [hbank]
      exact hprev
    · rw [hbank]
      exact hmem
    · obtain ⟨hprev, hmem⟩ := State.demodAfter_fm hfin hk hm.le
      rw [hread m hm, hk, State.demodOut, detect_fm _ _ hk, State.demodSamples_getD hfin hm, huses, State.fmAfter, ← hmem,
        State.fmPhaseAt, ← hprev]
      rfl

end Sys2Proof.Machine
end

section
/-! PROOFS. AGCRUN on a block (spec/44_agc.md R303 to R307, R56): the AGC after each sample, every output, and what is counted. -/

namespace Sys2Proof.Machine

/-- The AGC after a sequence, sample by sample (R303). -/
def agcAfterBlock (p : Params) (cx : Bool) (mo rg : Real64) (g : AGCState) (x : List Cplx) : AGCState :=
  x.foldl (fun g z => (agcStep p cx mo rg g z).g) g

section
variable (p : Params) (cx : Bool) (mo rg : Real64) (g : AGCState) (x : List Cplx)

theorem agcLoop_g : (agcLoop p cx mo rg g x).g = agcAfterBlock p cx mo rg g x := by
  induction x generalizing g with
  | nil => rfl
  | cons z x ih => exact ih _

/-- Each output is the delayed sample times the gain as the AGC stands then, limited to full scale (R303, R307). -/
theorem agcLoop_out : (agcLoop p cx mo rg g x).out =
    (List.range x.length).map fun m => limited p cx (agcAfterBlock p cx mo rg g (x.take m)).delayed := by
  induction x generalizing g with
  | nil => rfl
  | cons z x ih =>
    rw [List.length_cons, List.range_succ_eq_map, List.map_cons, List.map_map]
    exact congrArg _ (ih _)

/-- The samples counted are those whose level after the gain passes full scale (R306). -/
theorem agcLoop_clamped : (agcLoop p cx mo rg g x).clamped =
    ((List.range x.length).filter fun m => overrange p cx (agcAfterBlock p cx mo rg g (x.take m)).delayed).length := by
  induction x generalizing g with
  | nil => rfl
  | cons z x ih =>
    have hrest : (agcLoop p cx mo rg g (z :: x)).clamped =
        (agcLoop p cx mo rg (agcStep p cx mo rg g z).g x).clamped + bit (overrange p cx g.delayed) := rfl
    rw [hrest, ih, List.length_cons, List.range_succ_eq_map, List.filter_cons, List.filter_map, List.take_zero]
    cases hover : overrange p cx g.delayed
    · rw [if_neg (by rw [agcAfterBlock, List.foldl_nil, hover]; decide), List.length_map]
      rfl
    · rw [if_pos (by rw [agcAfterBlock, List.foldl_nil, hover]), List.length_cons, List.length_map]
      rfl

/-- What a block leaves of an AGC's configuration, and its cursor (R303). -/
theorem agcAfterBlock_shape (hread : g.indexRead < g.len) :
    let u := agcAfterBlock p cx mo rg g x
    u.indexRead = (g.indexRead + x.length) % g.len ∧ u.len = g.len ∧ u.fs = g.fs ∧ u.fm = g.fm := by
  induction x generalizing g with
  | nil => exact ⟨(Nat.mod_eq_of_lt hread).symm, rfl, rfl, rfl⟩
  | cons z x ih =>
    obtain ⟨-, hlen, -, hcur, -⟩ := agcStep_shape p cx mo rg g z
    have hkept : (agcStep p cx mo rg g z).g.fs = g.fs ∧ (agcStep p cx mo rg g z).g.fm = g.fm := by
      dsimp only [agcStep]
      rw [AGCState.released_if, AGCState.gainStep_eq, AGCState.corrected_if]
      exact ⟨rfl, rfl⟩
    obtain ⟨hcur', hlen', hfs, hfm⟩ := ih (agcStep p cx mo rg g z).g (by
      rw [hcur, hlen]
      exact Nat.mod_lt _ (Nat.zero_lt_of_lt hread))
    refine ⟨hcur'.trans ?_, hlen'.trans hlen, hfs.trans hkept.1, hfm.trans hkept.2⟩
    rw [hcur, hlen, Nat.mod_add_mod, List.length_cons, Nat.add_assoc, Nat.add_comm 1]

/-- A look-ahead buffer of finite samples gives finite ones (R303). -/
theorem agcLoop_bad (hg : ∀ z ∈ g.buf, z.isFinite = true) (hx : ∀ z ∈ x, z.isFinite = true) : (agcLoop p cx mo rg g x).bad = false := by
  induction x generalizing g with
  | nil => rfl
  | cons z x ih =>
    obtain ⟨hz, hrest⟩ := List.forall_mem_cons.mp hx
    have hbuf : (agcStep p cx mo rg g z).g.buf = g.buf.set g.indexRead z := by
      dsimp only [agcStep]
      rw [AGCState.released_if, AGCState.gainStep_eq, AGCState.corrected_if]
      rfl
    refine Bool.or_eq_false_iff.mpr ⟨?_, ih _ (fun y hy => ?_) hrest⟩
    · rw [getD_isFinite hg, Bool.not_true]
    · rw [hbuf] at hy
      rcases List.mem_or_eq_of_mem_set hy with hy | rfl
      · exact hg y hy
      · exact hz

end

section
variable (s : State) (x : Bool) (id : Nat)

theorem State.agcAfter_eq (m : Nat) : s.agcAfter x id m = agcAfterBlock s.cfg x s.cr.agcMaxOut s.cr.agcRelGain
    { (s.bank id).agc with alpha := agcAlpha s.cfg s.cr.agcRelTime (s.bank id).agc.fs } ((s.input (agcVariant x)).take m) := rfl

theorem State.agcRun_st : (s.agcRun x id).st = s.agcAfter x id s.opN := by
  rw [State.agcAfter_eq, List.take_of_length_le (s.input_length (agcVariant x)).le]
  exact agcLoop_g ..

theorem State.agcRun_out : (s.agcRun x id).out = (List.range s.opN).map fun m =>
    cellOf (agcVariant x) (limited s.cfg x (s.agcAfter x id m).delayed) := by
  have hout := congrArg (outputAs (agcVariant x)) (agcLoop_out s.cfg x s.cr.agcMaxOut s.cr.agcRelGain
    { (s.bank id).agc with alpha := agcAlpha s.cfg s.cr.agcRelTime (s.bank id).agc.fs } (s.input (agcVariant x)))
  rw [outputAs_eq_map _ (List.map _ _), List.map_map, State.input_length] at hout
  exact hout

theorem State.agcRun_clamped : (s.agcRun x id).clamped =
    ((List.range s.opN).filter fun m => overrange s.cfg x (s.agcAfter x id m).delayed).length := by
  have hclamped := agcLoop_clamped s.cfg x s.cr.agcMaxOut s.cr.agcRelGain
    { (s.bank id).agc with alpha := agcAlpha s.cfg s.cr.agcRelTime (s.bank id).agc.fs } (s.input (agcVariant x))
  rw [State.input_length] at hclamped
  exact hclamped

variable {s}

/-- The cursor after each sample, and what no sample changes (R303). -/
theorem State.agcAfter_shape (hread : (s.bank id).agc.indexRead < (s.bank id).agc.len) {m : Nat} (hm : m ≤ s.opN) :
    let g := (s.bank id).agc
    let u := s.agcAfter x id m
    u.indexRead = (g.indexRead + m) % g.len ∧ u.len = g.len ∧ u.fs = g.fs ∧ u.fm = g.fm := by
  have h := agcAfterBlock_shape s.cfg x s.cr.agcMaxOut s.cr.agcRelGain
    { (s.bank id).agc with alpha := agcAlpha s.cfg s.cr.agcRelTime (s.bank id).agc.fs } ((s.input (agcVariant x)).take m) hread
  rwa [List.length_take_of_le (hm.trans (s.input_length _).ge)] at h

end

/-- Settles O50: the loop's outputs and its count, on the AGC as its samples leave it. -/
theorem agcrunCompletes : Obligations.AgcrunCompletes := by
  intro s x id hid hwf _ hb g v level delayed clamped hvalid hok hregs
  obtain ⟨-, -, hread, -⟩ := hok hvalid
  have hdelayed {m : Nat} (hm : m < s.opN) : (s.agcAfter x id m).delayed = delayed m := by
    obtain ⟨hcur, -⟩ := State.agcAfter_shape x id hread hm.le
    rw [AGCState.delayed, hcur]
  have hover {m : Nat} (hm : m < s.opN) : overrange s.cfg x (s.agcAfter x id m).delayed = s.cfg.clip.lt (level (delayed m)) := by
    rw [hdelayed hm]
    cases x <;> rfl
  have hcount : (s.agcRun x id).clamped = clamped := by
    rw [State.agcRun_clamped]
    exact congrArg List.length (List.filter_congr fun m hm => hover (List.mem_range.mp hm))
  have hlen : (s.agcRun x id).out.length = s.opN := by rw [State.agcRun_out, List.length_map, List.length_range]
  obtain ⟨hcur, hkept⟩ := State.agcAfter_shape x id hread (le_refl s.opN)
  rw [← State.agcRun_st] at hcur hkept
  have hshape (bad : Bool) : let u := (s.agcRun x id).commit bad
      u.indexRead = (g.indexRead + s.opN) % g.len ∧ u.len = g.len ∧ u.fs = g.fs ∧ u.fm = g.fm := by
    cases bad <;> exact ⟨hcur, hkept⟩
  have hagc := State.agc_agcDone x hid
  refine ⟨_, exec_agcrun_of_ready x hid hb hvalid hregs, ?_, ?_, fun h0 => ?_, ?_⟩
  · have hdone := s.completed_agcDone x id
    rwa [hlen, State.opN, BitVec.ofNat_toNat, BitVec.setWidth_eq] at hdone
  · exact congrArg (fun k => s.cr.ovrCnt + BitVec.ofNat 32 k) hcount
  · rw [hagc]
    exact if_pos h0
  · rw [hagc]
    obtain ⟨hcur', hlen', hfs', hfm'⟩ := hshape (s.agcRun x id).bad
    refine ⟨hcur', hlen', hfs', hfm', fun hfin => ?_⟩
    obtain ⟨hblock, hbuf⟩ := List.forall_mem_append.mp hfin
    have hbad : (s.agcRun x id).bad = false :=
      Bool.or_eq_false_iff.mpr ⟨(anyNonFinite_eq_false _).mpr hblock, agcLoop_bad _ _ _ _ _ _ hbuf hblock⟩
    refine ⟨by rw [hbad]; exact s.agcRun_st x id, fun m hm => ?_⟩
    refine State.read_finishBuf hwf ?_
    rw [hbad, emitted_finite, outputAs_getElem?, State.agcRun_out, getElem?_map_range _ hm, Option.map_some, cellOf_cellOf,
      limited, hover hm, hdelayed hm]
    cases x <;> rfl

end Sys2Proof.Machine
end

section
/-! PROOFS. ANRUN's counts and its block buffer (spec/46_auto_notch.md R363, R448): whole hops, the fill level, the stream the buffer
holds. -/

namespace Sys2Proof.Machine

/-! ### One sample of the loop (R363) -/

section
variable {p : Params} {ks : Option Int} {room : Nat} {t : NotchState} (z : Cplx) (x : List Cplx)

/-- A hop that `MAXBLOCK` does not admit stops the loop before its last sample (R448). -/
theorem notchLoop_cut (hlast : t.fill + 1 = p.anB) (hroom : room < p.anB) :
    notchLoop p ks room t (z :: x) = ⟨t, [], false, true, 0, 0, false⟩ := by
  rw [notchLoop, if_pos ⟨hlast, hroom⟩]

/-- The sample that completes a hop. -/
theorem notchLoop_hop (hlast : t.fill + 1 = p.anB) (hroom : p.anB ≤ room) : notchLoop p ks room t (z :: x) =
    let u := t.collect p z.re
    let h := u.hop p ks
    let q := notchLoop p ks (room - p.anB) h.1 x
    ⟨q.t, h.2.map Cplx.ofReal ++ q.out, u.hopBad p ks || q.bad, q.trunc, q.eaten + 1, q.hops + 1,
      (u.analysed p ks (p.fft (u.blk.map Cplx.ofReal))).staleKernel || q.built⟩ := by
  rw [notchLoop, if_neg fun h => absurd h.2 (Nat.not_lt.mpr hroom)]
  exact if_pos hlast

/-- A sample that completes none. -/
theorem notchLoop_collect (hopen : t.fill + 1 ≠ p.anB) : notchLoop p ks room t (z :: x) =
    let q := notchLoop p ks room (t.collect p z.re) x
    ⟨q.t, q.out, q.bad, q.trunc, q.eaten + 1, q.hops, q.built⟩ := by
  rw [notchLoop, if_neg fun h => hopen h.1]
  exact if_neg hopen

end

/-! ### The counts (R363, R448) -/

/-- What a run of the loop over `n` samples counts, from a fill level and with room for so many outputs: the samples it takes fill whole
hops up to a rest, and only a hop without room stops it. -/
structure NotchLoop.Tally (r : NotchLoop) (hop room fill n : Nat) : Prop where
  taken : fill + r.eaten = r.hops * hop + r.t.fill
  rest : r.t.fill < hop
  admitted : r.hops * hop ≤ room
  outputs : r.out.length = r.hops * hop
  whole : r.trunc = false → r.eaten = n
  stopped : r.trunc = true → r.eaten < n ∧ r.t.fill + 1 = hop ∧ room < (r.hops + 1) * hop
  unbuilt : r.hops = 0 → r.built = false

theorem notchLoop_tally (p : Params) (ks : Option Int) (room : Nat) {t : NotchState} (x : List Cplx) (h : t.fill < p.anB) :
    (notchLoop p ks room t x).Tally p.anB room t.fill x.length := by
  induction x generalizing room t with
  | nil => exact ⟨by simp [notchLoop], h, by simp [notchLoop], by simp [notchLoop], fun _ => rfl, nofun, fun _ => rfl⟩
  | cons z x ih =>
    by_cases hlast : t.fill + 1 = p.anB
    · rcases Nat.lt_or_ge room p.anB with hroom | hroom
      · rw [notchLoop_cut z x hlast hroom]
        exact ⟨by simp, h, by simp, by simp, nofun, fun _ => ⟨Nat.succ_pos _, hlast, by simpa using hroom⟩, fun _ => rfl⟩
      · have hrec := ih (room - p.anB) (t := ((t.collect p z.re).hop p ks).1) (Nat.zero_lt_of_lt h)
        rw [notchLoop_hop z x hlast hroom]
        obtain ⟨htaken, hrest, hadm, hout, hwhole, hstop, -⟩ := hrec
        rw [show ((t.collect p z.re).hop p ks).1.fill = 0 from rfl] at htaken
        refine ⟨?_, hrest, ?_, ?_, fun htr => congrArg (· + 1) (hwhole htr), fun htr => ?_, fun h0 => absurd h0 (Nat.succ_ne_zero _)⟩
        · dsimp only
          rw [Nat.succ_mul]
          omega
        · dsimp only
          rw [Nat.succ_mul]
          omega
        · dsimp only
          rw [List.length_append, List.length_map, NotchState.hop_length, hout, Nat.succ_mul, Nat.add_comm]
        · obtain ⟨heaten, hfill, hno⟩ := hstop htr
          refine ⟨Nat.succ_lt_succ heaten, hfill, ?_⟩
          dsimp only
          rw [Nat.succ_mul]
          omega
    · have hrec := ih room (t := t.collect p z.re) (by
        rw [show (t.collect p z.re).fill = t.fill + 1 from rfl]
        omega)
      rw [notchLoop_collect z x hlast]
      obtain ⟨htaken, hrest, hadm, hout, hwhole, hstop, hbuilt⟩ := hrec
      rw [show (t.collect p z.re).fill = t.fill + 1 from rfl] at htaken
      refine ⟨?_, hrest, hadm, hout, fun htr => congrArg (· + 1) (hwhole htr), fun htr => ?_, hbuilt⟩
      · dsimp only
        omega
      · obtain ⟨heaten, hfill, hno⟩ := hstop htr
        exact ⟨Nat.succ_lt_succ heaten, hfill, hno⟩

/-- The counts in the terms of the spec: as many hops as the samples complete and `MAXBLOCK` admits. -/
theorem NotchLoop.Tally.counts {r : NotchLoop} {hop room fill n : Nat} (h : r.Tally hop room fill n) :
    r.hops = min ((fill + n) / hop) (room / hop) ∧ r.trunc = decide (r.hops < (fill + n) / hop) ∧
      r.t.fill = if r.hops < (fill + n) / hop then hop - 1 else (fill + n) % hop := by
  obtain ⟨htaken, hrest, hadm, -, hwhole, hstop, -⟩ := h
  have hpos : 0 < hop := Nat.zero_lt_of_lt hrest
  have hfit : r.hops ≤ room / hop := (Nat.le_div_iff_mul_le hpos).mpr hadm
  cases htr : r.trunc with
  | false =>
    rw [hwhole htr] at htaken
    have hdiv : (fill + n) / hop = r.hops := by
      rw [htaken, Nat.mul_comm, Nat.mul_add_div hpos, Nat.div_eq_of_lt hrest, Nat.add_zero]
    have hmod : (fill + n) % hop = r.t.fill := by
      rw [htaken, Nat.mul_comm, Nat.mul_add_mod, Nat.mod_eq_of_lt hrest]
    rw [hdiv, hmod, if_neg (Nat.lt_irrefl _), decide_eq_false (Nat.lt_irrefl _)]
    exact ⟨(Nat.min_eq_left hfit).symm, rfl, rfl⟩
  | true =>
    obtain ⟨heaten, hfill, hno⟩ := hstop htr
    have hmore : r.hops < (fill + n) / hop := (Nat.le_div_iff_mul_le hpos).mpr (by
      rw [Nat.succ_mul]
      omega)
    have hroom : room / hop < r.hops + 1 := (Nat.div_lt_iff_lt_mul hpos).mpr hno
    rw [if_pos hmore, decide_eq_true hmore]
    exact ⟨by omega, rfl, by omega⟩

/-- Without a hop the loop changes the block buffer and the fill level only. -/
theorem notchLoop_without_hop (p : Params) (ks : Option Int) (room : Nat) (t : NotchState) (x : List Cplx) :
    let r := notchLoop p ks room t x
    r.hops = 0 → r.t = { t with blk := r.t.blk, fill := r.t.fill } := by
  induction x generalizing room t with
  | nil => exact fun _ => rfl
  | cons z x ih =>
    by_cases hlast : t.fill + 1 = p.anB
    · rcases Nat.lt_or_ge room p.anB with hroom | hroom
      · rw [notchLoop_cut z x hlast hroom]
        exact fun _ => rfl
      · rw [notchLoop_hop z x hlast hroom]
        exact fun h0 => absurd h0 (Nat.succ_ne_zero _)
    · rw [notchLoop_collect z x hlast]
      exact fun h0 => ih room (t.collect p z.re) h0

/-! ### The block buffer (R363) -/

/-- The samples before a block, then those of the block. -/
def NotchState.stream (p : Params) (t : NotchState) (x : List Cplx) : List Real64 :=
  t.blk.take (p.anNfft - p.anB + t.fill) ++ x.map Cplx.re

/-- The slide keeps the last samples (R363). -/
theorem slide_take {p : Params} {blk : List Real64} (hlen : blk.length = p.anNfft) :
    (slide p blk).take (p.anNfft - p.anB) = blk.drop p.anB := by
  refine List.ext_getElem (by rw [List.length_take, List.length_drop, slide, List.length_mapIdx]; omega) fun i hi hi' => ?_
  rw [List.length_drop] at hi'
  rw [List.getElem_take, List.getElem_drop]
  simp only [slide, List.getElem_mapIdx]
  rw [if_pos (by omega), List.getD_eq_getElem _ _ (by omega)]
  congr 1
  omega

section
variable {p : Params} {t : NotchState} (hlen : t.blk.length = p.anNfft) (hfit : p.anNfft - p.anB + t.fill < p.anNfft) (z : Cplx)
  (x : List Cplx)
include hlen hfit

/-- A sample collected is one of the stream. -/
theorem NotchState.stream_collect : (t.collect p z.re).stream p x = t.stream p (z :: x) := by
  have hget : (t.blk.set (p.anNfft - p.anB + t.fill) z.re)[p.anNfft - p.anB + t.fill]? = some z.re := by
    rw [List.getElem?_set_self (by omega)]
  rw [NotchState.stream, NotchState.collect, ← Nat.add_assoc, List.take_add_one, List.take_set_of_le (le_refl _), hget,
    List.append_assoc]
  rfl

/-- A hop slides the stream by its length. -/
theorem NotchState.stream_hop (hlast : t.fill + 1 = p.anB) (ks : Option Int) :
    ((t.collect p z.re).hop p ks).1.stream p x = (t.stream p (z :: x)).drop p.anB := by
  have hlen' : (t.collect p z.re).blk.length = p.anNfft := (List.length_set ..).trans hlen
  have hfull : (t.collect p z.re).fill = p.anB := hlast
  have hkept : ((t.collect p z.re).hop p ks).1.blk = slide p (t.collect p z.re).blk := rfl
  rw [← NotchState.stream_collect hlen hfit z x, NotchState.stream, NotchState.stream, hkept,
    show ((t.collect p z.re).hop p ks).1.fill = 0 from rfl, Nat.add_zero, slide_take hlen', hfull,
    List.take_of_length_le (by omega), List.drop_append_of_le_length (by omega)]

end

/-- Up to the fill level the stream is the buffer. -/
theorem NotchState.stream_getD {p : Params} {t : NotchState} {q : Nat} (x : List Cplx) (hlen : t.blk.length = p.anNfft)
    (hfit : p.anNfft - p.anB + t.fill ≤ p.anNfft) (hq : q < p.anNfft - p.anB + t.fill) :
    (t.stream p x).getD q .zero = t.blk.getD q .zero := by
  rw [NotchState.stream, List.getD_append _ _ _ _ (by rw [List.length_take]; omega), List.getD_eq_getElem?_getD,
    List.getElem?_take_of_lt hq, List.getD_eq_getElem?_getD]

/-- What the loop leaves of the block buffer of `t`: the stream, slid by its hops, up to the fill level; without a hop the rest stays. -/
structure NotchLoop.Holds (r : NotchLoop) (p : Params) (t : NotchState) (x : List Cplx) : Prop where
  length : r.t.blk.length = p.anNfft
  stream : ∀ q < p.anNfft - p.anB + r.t.fill, r.t.blk.getD q .zero = (t.stream p x).getD (q + r.hops * p.anB) .zero
  kept : r.hops = 0 → ∀ q, p.anNfft - p.anB + r.t.fill ≤ q → r.t.blk.getD q .zero = t.blk.getD q .zero

/-- A loop that takes no sample leaves the buffer. -/
theorem NotchLoop.holds_of_untaken {p : Params} {t : NotchState} {r : NotchLoop} (x : List Cplx) (hlen : t.blk.length = p.anNfft)
    (hfit : p.anNfft - p.anB + t.fill ≤ p.anNfft) (ht : r.t = t) (hhops : r.hops = 0) : r.Holds p t x := by
  refine ⟨ht ▸ hlen, fun q hq => ?_, fun _ q _ => by rw [ht]⟩
  rw [ht] at hq ⊢
  rw [hhops, Nat.zero_mul, Nat.add_zero, NotchState.stream_getD x hlen hfit hq]

theorem notchLoop_holds {p : Params} (ks : Option Int) (room : Nat) {t : NotchState} (x : List Cplx) (hhop : p.anB ≤ p.anNfft)
    (hlen : t.blk.length = p.anNfft) (hfill : t.fill < p.anB) : (notchLoop p ks room t x).Holds p t x := by
  have hfit {n : Nat} (hn : n < p.anB) : p.anNfft - p.anB + n < p.anNfft := by omega
  induction x generalizing room t with
  | nil => exact NotchLoop.holds_of_untaken [] hlen (hfit hfill).le rfl rfl
  | cons z x ih =>
    by_cases hlast : t.fill + 1 = p.anB
    · rcases Nat.lt_or_ge room p.anB with hroom | hroom
      · rw [notchLoop_cut z x hlast hroom]
        exact NotchLoop.holds_of_untaken (z :: x) hlen (hfit hfill).le rfl rfl
      · have hslid : ((t.collect p z.re).hop p ks).1.blk.length = p.anNfft := by
          rw [show ((t.collect p z.re).hop p ks).1.blk = slide p (t.collect p z.re).blk from rfl, slide, List.length_mapIdx]
          exact (List.length_set ..).trans hlen
        obtain ⟨hlen', hstream, -⟩ := ih (room - p.anB) hslid (Nat.zero_lt_of_lt hfill)
        rw [NotchState.stream_hop hlen (hfit hfill) z x hlast] at hstream
        rw [notchLoop_hop z x hlast hroom]
        refine ⟨hlen', fun q hq => (hstream q hq).trans ?_, fun h0 => absurd h0 (Nat.succ_ne_zero _)⟩
        dsimp only
        rw [List.getD_eq_getElem?_getD, List.getElem?_drop, ← List.getD_eq_getElem?_getD, Nat.succ_mul]
        congr 1
        omega
    · have hopen : t.fill + 1 < p.anB := by omega
      have hwritten : (t.collect p z.re).blk.length = p.anNfft := (List.length_set ..).trans hlen
      obtain ⟨hlen', hstream, hkept⟩ := ih room hwritten hopen
      rw [NotchState.stream_collect hlen (hfit hfill) z x] at hstream
      rw [notchLoop_collect z x hlast]
      refine ⟨hlen', hstream, fun h0 q hq => (hkept h0 q hq).trans ?_⟩
      have htaken := (notchLoop_tally p ks room x (t := t.collect p z.re) hopen).taken
      have hcollect : (t.collect p z.re).fill = t.fill + 1 := rfl
      have hblk : (t.collect p z.re).blk = t.blk.set (p.anNfft - p.anB + t.fill) z.re := rfl
      dsimp only at h0 hq
      rw [h0, hcollect] at htaken
      rw [hblk, List.getD_eq_getElem?_getD, List.getElem?_set_ne (by omega), ← List.getD_eq_getElem?_getD]

/-! ### ANRUN -/

/-- The loop of ANRUN on bank 0. -/
def State.anLoop (s : State) : NotchLoop :=
  notchLoop s.cfg (sidetoneBin s.cfg s.draws s.cr.sidetoneFreq (s.bank 0).notch.fs) s.cfg.maxBlock (s.bank 0).notch (s.input .real)

/-- Entries that are not written keep their values. -/
theorem freeReals_of_none {ser : Nat} {pl : Place} {w : Nat → Bool} {l : List Real64} (h : ∀ i < l.length, w i = false) :
    freeReals ser pl w l = l := by
  refine List.ext_getElem (freeReals_length ..) fun i hi hi' => ?_
  simp only [freeReals, List.getElem_mapIdx, h i hi', Bool.false_eq_true, if_false]

/-- Without a hop a run frees of the notch at most its block buffer (R11, R363). -/
theorem NotchState.freed_without_hop {p : Params} {r : NotchLoop} (ser fill0 : Nat) (h0 : r.hops = 0) (hbuilt : r.built = false) :
    NotchState.freed p ser fill0 r = { r.t with blk := (NotchState.freed p ser fill0 r).blk } := by
  have hdly : freeReals ser (4 :: placeNotch) (fun i => decide (r.t.dly.length ≤ i + p.anB * r.hops)) r.t.dly = r.t.dly :=
    freeReals_of_none fun i hi => decide_eq_false (by rw [h0]; omega)
  dsimp only [NotchState.freed]
  rw [hdly, hbuilt, if_pos h0]
  rfl

/-- Settles O54: the loop's tally, and the stream its block buffer holds. -/
theorem anrunCounts : Obligations.AnrunCounts := by
  intro s hid _ _ hbuf hvalid hfill b fill hops cut left g start stream
  have htally : s.anLoop.Tally b s.cfg.maxBlock fill (s.input .real).length := notchLoop_tally _ _ _ _ hfill
  rw [State.input_length] at htally
  obtain ⟨hcount, htrunc, hrest⟩ := htally.counts
  have hhops : s.anLoop.hops = hops := hcount
  rw [hhops] at htrunc hrest
  have hleft : s.anLoop.t.fill = left := by
    rw [hrest]
    by_cases hcut : hops < (fill + s.opN) / b
    · exact (if_pos hcut).trans (if_pos (decide_eq_true hcut)).symm
    · exact (if_neg hcut).trans (if_neg (ne_true_of_eq_false (decide_eq_false hcut))).symm
  obtain ⟨-, -, hkeptFill⟩ := State.anNotch_slots (s := s)
  obtain ⟨hkeptValid, hkeptFs⟩ := (s.runNotch_latched g (s.input .real)).commit s.anRun.bad
  have hnotch := State.notch_anrunDone hid
  refine ⟨_, exec_anrun_of_ready hid hbuf hvalid, ?_, ?_⟩
  · have hdone := State.completed_anrunDone (s := s)
    have hlen : s.anRun.out.length = hops * b := htally.outputs.trans (by rw [hhops])
    rwa [hlen, show s.anRun.trunc = cut from htrunc] at hdone
  · rw [hnotch]
    refine ⟨hkeptFill.trans hleft, hkeptValid, hkeptFs, rfl, rfl, fun h0 => ?_, fun hhop hlen hfin => ?_⟩
    · have hloop : s.anLoop.t = { g with blk := s.anLoop.t.blk, fill := s.anLoop.t.fill } :=
        notchLoop_without_hop _ _ _ _ _ (hhops.trans h0)
      rw [hleft] at hloop
      have hfreed := NotchState.freed_without_hop (p := s.cfg) s.draws fill (hhops.trans h0) (htally.unbuilt (hhops.trans h0))
      rw [State.anNotch]
      cases s.anRun.bad
      · exact hloop
      · exact hfreed.trans (congrArg (fun t => { t with blk := (NotchState.freed s.cfg s.draws fill s.anLoop).blk }) hloop)
    · have hblk : s.anNotch.blk = s.anLoop.t.blk := by
        rw [State.anNotch, show s.anRun.bad = false from hfin]
        rfl
      obtain ⟨hlen', hstream, hkept⟩ : s.anLoop.Holds s.cfg g (s.input .real) := notchLoop_holds _ _ _ hhop hlen hfill
      rw [hhops, hleft] at hstream
      rw [hhops, hleft] at hkept
      rw [hblk]
      exact ⟨hlen', hstream, hkept⟩

end Sys2Proof.Machine
end
